-- ==== Sys2Proof/Word.lean ====
section
/-! DEFINITION. The widths of the block's values (spec/00_scope.md R5, R8). -/

namespace Sys2Proof

/-- `U8` of R8: one byte, the width of the host port, of CMD and of OPL. -/
abbrev Byte := BitVec 8

/-- `U32` of R8: one slice of the reducer. -/
abbrev U32 := BitVec 32

/-- `U256` of R8: a FieldElement's container, canonical when below p. -/
abbrev U256 := BitVec 256

/-- `U257` of R8: the raw adder's result with its carry as bit 256 (R98, R161). -/
abbrev U257 := BitVec 257

/-- `U512` of R8: a WideElement. -/
abbrev U512 := BitVec 512

end Sys2Proof
end

