-- ==== Sys2Proof/Config.lean ====
section
/-! DEFINITION. The open parameters of the spec (spec/92_eei_decisions.md, "Open parameters, collected") and its `any value`
reads (spec/93_implementation_defined.md U5), as constants with no body: nothing can be proved about their values.
Each is applied to the model's draw counter, so that two uses are unrelated. -/

namespace Sys2Proof

/-- The registers a Reset leaves unspecified (R34, R200): the parameter RESET_DATA, and OPL. -/
structure ResetData where
  A : U256
  B : U256
  T : U512
  R : U256
  OPL : Byte
  deriving DecidableEq, Repr, Inhabited

/-- RESET_DATA (R34, D14): what the draw-th Reset leaves in A, B, T, R and OPL. Free value, log 3. -/
opaque Config.resetData (draw : Nat) : ResetData

/-- LATENCY(op, operands) (R5, R214, D8): host steps between acceptance and `Complete`, "possibly different for every
operation instance", hence the draw. Free value, log 4. -/
opaque Config.latency (draw : Nat) (op : Byte) (a b : U256) (t : U512) : Nat

/-- An unspecified byte (R61, R201, U5, U12): "any U8, possibly different at each read". Free value, log 1. -/
opaque Config.freeByte (draw : Nat) : Byte

end Sys2Proof
end

