-- ==== Sys2Proof/Syntax.lean ====
section
/-! DEFINITION. The seven commands (spec/30_encoding.md R73) and the host script notation (R79, R80). -/

namespace Sys2Proof

/-- The commands of the opcode map (R73). Operands are implicit (R72), so no constructor has an argument. -/
inductive Instr where
  /-- 0x01: raw addition (R92). -/
  | radd
  /-- 0x02: raw subtraction (R93). -/
  | rsub
  /-- 0x03: modular addition (R113). -/
  | madd
  /-- 0x04: modular subtraction (R114). -/
  | msub
  /-- 0x05: wide multiplication (R152). -/
  | mul
  /-- 0x06: fast reduction (R133). -/
  | red
  /-- 0x07: modular inversion (R165). -/
  | inv
  deriving DecidableEq, Repr

/-- What the host does at its port: the primitives of R79, the poll of WAIT and the read-then-write of CP (R80), and the
reset input (R200), alone or coinciding with an access (R201). -/
inductive HostOp where
  /-- `RD addr`: HostRead(addr), yielding the byte (R79). -/
  | rd (addr : Byte)
  /-- `WR addr, b`: HostWrite(addr, b) (R79). -/
  | wr (addr b : Byte)
  /-- `RD src` then `WR dst,` the byte read: the unit of CP.RA and CP.RB (R80); two host actions. -/
  | rdTo (src dst : Byte)
  /-- `WAIT`: repeat `RD 0xE1` until the byte read has bit 0 = 0 (R80). -/
  | poll
  /-- `RESET` (R80, R200). -/
  | reset
  /-- `RESET` coinciding with HostRead(addr) (R201). -/
  | resetRd (addr : Byte)
  /-- `RESET` coinciding with HostWrite(addr, b) (R201). -/
  | resetWr (addr b : Byte)
  deriving DecidableEq, Repr

/-- The pseudo-instructions of the host script (R80). -/
inductive Pseudo where
  /-- `LD.A X`. -/
  | ldA (x : U256)
  /-- `LD.B X`. -/
  | ldB (x : U256)
  /-- `LD.T Y`. -/
  | ldT (y : U512)
  /-- `RUN m`. -/
  | run (m : Instr)
  /-- `WAIT`. -/
  | wait
  /-- A mnemonic alone on a line: `RUN m` followed by `WAIT`. -/
  | cmd (m : Instr)
  /-- `ST.R -> v`. -/
  | stR
  /-- `ST.T -> v`. -/
  | stT
  /-- `FLAGS -> f`. -/
  | flags
  /-- `CP.RA`. -/
  | cpRA
  /-- `CP.RB`. -/
  | cpRB
  /-- `RESET`. -/
  | reset
  deriving DecidableEq, Repr

end Sys2Proof
end

