-- ==== Sys2Proof/Machine/State.lean ====
section
/-! DEFINITION. The state of the block (spec/10_state.md R20), of its host port and of the model's own bookkeeping; reset
(R34, R200); the reasons a step can stop. -/

namespace Sys2Proof.Machine

/-- The fields of STATUS (R26). Bits 7:5 are read as 0 and never written, so they have no storage here; the byte the host
reads is `statusByte` of Machine/Flags.lean. -/
structure Status where
  /-- Bit 0: an operation is in flight. -/
  busy : Bool
  /-- Bit 1: a `Complete` step has happened since the last accepted CMD write or reset. -/
  done : Bool
  /-- Bit 2: carry or borrow of the raw stage (R27). Between acceptance and `Complete` the stored bit is unobservable
  (U11, log 8). -/
  cb : Bool
  /-- Bit 3: the last completed operation's operands were outside the source's precondition (R28). Stored as `cb` is while an
  operation is in flight. -/
  pv : Bool
  /-- Bit 4: the last accepted CMD write was no valid command (R29). -/
  ill : Bool
  deriving DecidableEq, Repr

/-- STATUS after reset: 0x00 (R34, R200). -/
def Status.zero : Status :=
  { busy := false, done := false, cb := false, pv := false, ill := false }

/-- The whole state. `A` to `OPL` are the block's (R20); `wait`, `draws`, `script` and `received` are the MODEL's own. The
constants P and RC are hardwired and not state (R30); scratch is not state (U9). -/
structure State where
  /-- First operand (R21). -/
  A : U256
  /-- Second operand (R22). -/
  B : U256
  /-- Wide register: destination of MUL, operand of RED (R23). -/
  T : U512
  /-- Result register (R24). -/
  R : U256
  /-- Command register (R25). -/
  CMD : Byte
  /-- Status register (R26). -/
  STATUS : Status
  /-- Opcode of the operation in flight, meaningful while BUSY = 1 (R31). -/
  OPL : Byte
  /-- Model's own: host steps left before `Complete`, loaded with LATENCY at acceptance (R78, R214; log 4). -/
  wait : Nat
  /-- Model's own: how many free values have been drawn (log 16). -/
  draws : Nat
  /-- Model's own: the host's actions still to come (R79: a script is executed "in order"; log 5). -/
  script : List HostOp
  /-- Model's own: the bytes the host's reads have yielded, newest first (R79; log 5). -/
  received : List Byte
  deriving DecidableEq, Repr

/-- Why a step stops with a fault. The spec has no fault (R180). -/
inductive Fault where
  /-- Raised by `step` alone, where BUSY = 1 and OPL holds no valid command. The spec gives such a state no meaning, since
  OPL is loaded only with a valid command (R76), and no run reaches one. Safe (log 9). -/
  | opcodeLatchInvalid (opl : Byte)
  deriving DecidableEq, Repr

/-- Why a step is refused. -/
inductive Refusal where
  /-- An arm of `exec` whose instruction has no meaning yet: no arm of this model uses it. Safe. -/
  | notModelled (mnemonic : String)
  deriving DecidableEq, Repr

/-- The block right after a Reset that leaves `d` in the unspecified registers (R200): STATUS and CMD are 0x00; nothing is in
flight; the host's script and what it has read belong to the host. -/
def State.resetWith (d : ResetData) (draws : Nat) (script : List HostOp) (received : List Byte) : State where
  A := d.A
  B := d.B
  T := d.T
  R := d.R
  CMD := 0x00
  STATUS := Status.zero
  OPL := d.OPL
  wait := 0
  draws := draws
  script := script
  received := received

/-- The values this model names for the registers whose reset value the spec leaves open (RESET_DATA, R34).
DESIGN CHOICE, unsafe (log 2): no statement rests on them. -/
def resetDataNamed : ResetData :=
  { A := 0, B := 0, T := 0, R := 0, OPL := 0 }

/-- The machine right after reset (R34): no host action is pending. A program is loaded from outside (log 5). -/
def State.reset : State :=
  State.resetWith resetDataNamed 0 [] []

end Sys2Proof.Machine
end

