-- ==== Sys2Proof/Machine/Operands.lean ====
section
/-! DEFINITION. Operand forms. The one form is the implicit register (spec/30_encoding.md R72): the values of A, B, T at the
`Complete` step (spec/20_memory.md R62). -/

namespace Sys2Proof.Machine

/-- First operand of RADD, RSUB, MADD, MSUB, MUL; operand of INV (R21, R35). -/
def operandA (s : State) : U256 :=
  s.A

/-- Second operand of RADD, RSUB, MADD, MSUB, MUL (R22, R35). -/
def operandB (s : State) : U256 :=
  s.B

/-- Operand of RED (R23, R35). -/
def operandT (s : State) : U512 :=
  s.T

end Sys2Proof.Machine
end

