-- ==== Sys2Proof/WellFormed.lean ====
section
/-! DEFINITION. Well-formedness. A command has no field (spec/30_encoding.md R71, R72), so every `Instr` is well-formed; what
can be ill-formed is a command byte (R71: "valid values 0x01 to 0x07"). -/

namespace Sys2Proof

/-- Every command is well-formed: it carries no operand and no immediate (R72). -/
def Instr.wellFormed : Instr → Bool
  | .radd | .rsub | .madd | .msub | .mul | .red | .inv => true

/-- A byte is a valid command exactly when it lies in 0x01 to 0x07, all eight bits being decoded (R71, R74). -/
def commandWellFormed (b : Byte) : Bool :=
  decide (1 ≤ b.toNat) && decide (b.toNat ≤ 7)

end Sys2Proof
end

