-- ==== Sys2Proof/Decode.lean ====
section
/-! DEFINITION. The decoder and the encoder of CMD8 (spec/30_encoding.md R70 to R75). -/

namespace Sys2Proof

/-- Why a byte is no command. -/
inductive DecodeError where
  /-- One of the 249 invalid command bytes, 0x00 and 0x08 to 0xFF (R74). Not a fault: an accepted CMD write of it sets ILL
  (R77). -/
  | invalidCommand (b : Byte)
  deriving DecidableEq, Repr

/-- The total decoder of R75: all eight bits are decoded (R71), every byte outside the opcode map is invalid (R74). -/
def decode (b : Byte) : Except DecodeError Instr :=
  match b.toNat with
  | 0x01 => .ok .radd
  | 0x02 => .ok .rsub
  | 0x03 => .ok .madd
  | 0x04 => .ok .msub
  | 0x05 => .ok .mul
  | 0x06 => .ok .red
  | 0x07 => .ok .inv
  | _ => .error (.invalidCommand b)

/-- The byte of a command: the OP column of R73. -/
def encode : Instr → Byte
  | .radd => 0x01
  | .rsub => 0x02
  | .madd => 0x03
  | .msub => 0x04
  | .mul => 0x05
  | .red => 0x06
  | .inv => 0x07

/-- The command byte the opcode table's bits `w` of width `nbits` stand for: a command is one byte long (R70), bit 0 of the
table being bit 0 of the byte (R7). -/
def tableByte (nbits w : Nat) : Byte :=
  BitVec.ofNat 8 (w % 2 ^ nbits)

/-- The command the decoder reads from the opcode table's bits `w`, none where it answers Invalid. -/
def decodeTableWord (nbits w : Nat) : Option Instr :=
  (decode (tableByte nbits w)).toOption

end Sys2Proof
end

