-- ==== Sys2Proof/Machine/Bytes.lean ====
section
/-! DEFINITION. Bytes and 32-bit words of wide values (spec/00_scope.md R7, R8), little-endian (spec/20_memory.md R53). -/

namespace Sys2Proof.Machine

/-- `byte(X, k) = X[8k+7 : 8k]` (R7). -/
def byteOf {w : Nat} (x : BitVec w) (k : Nat) : Byte :=
  x.extractLsb' (8 * k) 8

/-- `X.byte[k] <- b` (R10): the other bytes keep their value. -/
def setByte {w : Nat} (x : BitVec w) (k : Nat) (b : Byte) : BitVec w :=
  (x &&& ~~~((0xFF#8).setWidth w <<< (8 * k))) ||| (b.setWidth w <<< (8 * k))

/-- `word(X, k) = X[32k+31 : 32k]` (R7). -/
def wordOf {w : Nat} (x : BitVec w) (k : Nat) : U32 :=
  x.extractLsb' (32 * k) 32

/-- `(w7 ‖ w6 ‖ ... ‖ w0)`: eight words listed most-significant first (R8). -/
def ofWords (w7 w6 w5 w4 w3 w2 w1 w0 : U32) : U256 :=
  w7 ++ w6 ++ w5 ++ w4 ++ w3 ++ w2 ++ w1 ++ w0

/-- `nat(b0, b1, ...)`: the number of a byte sequence listed from index 0 (R8). -/
def natOfBytes : List Byte → Nat
  | [] => 0
  | b :: bs => b.toNat + 256 * natOfBytes bs

end Sys2Proof.Machine
end

