-- ==== Sys2Proof/Machine/Constants.lean ====
section
/-! DEFINITION. The two hardwired constants (spec/10_state.md R30, spec/00_scope.md R5), under the source's names. -/

namespace Sys2Proof.Machine

/-- The modulus by the source's formula (R5, R13). -/
def pNat : Nat := 2 ^ 256 - 2 ^ 224 + 2 ^ 192 + 2 ^ 96 - 1

/-- `P` of R30: p as the hardwired 256-bit value. -/
def modulus : U256 := 0xFFFFFFFF00000001000000000000000000000000FFFFFFFFFFFFFFFFFFFFFFFF#256

/-- `RC` of R30: r = 2^256 mod p. -/
def reducerConst : U256 := 0x00000000FFFFFFFEFFFFFFFFFFFFFFFFFFFFFFFF000000000000000000000001#256

end Sys2Proof.Machine
end

