-- ==== Sys2Proof/Machine/Arith.lean ====
section
/-! DEFINITION. The raw functions and the helper primitives (spec/40_raw_arith.md R90, R91, R94 to R98). -/

namespace Sys2Proof.Machine

/-- `rawAdd(X, Y) -> (C, carry)`: the sum modulo 2^256 and whether it did not fit (R90). -/
def rawAdd (x y : U256) : U256 × Bool :=
  (x + y, decide (2 ^ 256 ≤ x.toNat + y.toNat))

/-- `rawSub(X, Y) -> (C, borrow)`: the difference modulo 2^256 and whether it would be negative (R91). -/
def rawSub (x y : U256) : U256 × Bool :=
  (x - y, decide (x.toNat < y.toNat))

/-- `isZero(X)` (R94). -/
def isZero (x : U256) : Bool :=
  x == 0#256

/-- `isEven(X)` for X : U256 or U257: bit 0 is 0 (R95). -/
def isEven {w : Nat} (x : BitVec w) : Bool :=
  !x.getLsbD 0

/-- `isOdd(X)` for X : U256 or U257: the negation of `isEven` (R95). -/
def isOdd {w : Nat} (x : BitVec w) : Bool :=
  !isEven x

/-- `geq(X, Y)`: the raw subtraction does not borrow (R96). -/
def geq (x y : U256) : Bool :=
  !(rawSub x y).2

/-- `shr1(X) = floor(X / 2)` (R97). -/
def shr1 (x : U256) : U256 :=
  x >>> 1

/-- `shr1c(c, X)`: the same shift with c entering at bit 255 (R98). -/
def shr1c (c : Bool) (x : U256) : U256 :=
  ((BitVec.ofBool c ++ x) >>> 1).setWidth 256

end Sys2Proof.Machine
end

