-- ==== Sys2Proof/Machine/Flags.lean ====
section
/-! DEFINITION. The STATUS byte (spec/10_state.md R26) and the domain tests PV is computed from (spec/60_exceptions.md R182).
CB is the carry or borrow `rawAdd` and `rawSub` answer (R27). -/

namespace Sys2Proof.Machine

/-- The STATUS byte of R26: BUSY bit 0, DONE bit 1, CB bit 2, PV bit 3, ILL bit 4, bits 7:5 zero. -/
def statusByte (f : Status) : Byte :=
  0#3 ++ BitVec.ofBool f.ill ++ BitVec.ofBool f.pv ++ BitVec.ofBool f.cb ++ BitVec.ofBool f.done ++ BitVec.ofBool f.busy

/-- STATUS as a read finds it while BUSY = 1: bits 2 and 3 are those of an unspecified byte (R61 (c)). -/
def statusByteBusy (f : Status) (free : Byte) : Byte :=
  statusByte { f with cb := free.getLsbD 2, pv := free.getLsbD 3 }

/-- The test "X >= p", the carry of rawAdd(X, r) (R182, R110). -/
def outOfRange (x : U256) : Bool :=
  (rawAdd x reducerConst).2

/-- PV of MADD and MSUB: A >= p or B >= p (R182). -/
def pvModular (a b : U256) : Bool :=
  outOfRange a || outOfRange b

/-- PV of INV: A = 0 or A >= p (R182). -/
def pvInverse (a : U256) : Bool :=
  isZero a || outOfRange a

end Sys2Proof.Machine
end

