-- ==== Sys2Proof/Machine/Ops.lean ====
section
/-! DEFINITION. The shared operations: the register window and its access rules (spec/20_memory.md), command issue and
completion (spec/30_encoding.md R76 to R78), Reset (spec/70_reset_and_hazards.md R200, R201) and the host's turn. There is no
exception to take or to return from (spec/60_exceptions.md R180, R185, R186). -/

namespace Sys2Proof.Machine

/-- What an address of the window names; k is the byte index (R51). -/
inductive Region where
  | a (k : Nat)
  | b (k : Nat)
  | t (k : Nat)
  | r (k : Nat)
  | p (k : Nat)
  | rc (k : Nat)
  | cmd
  | status
  | reserved
  deriving DecidableEq, Repr

/-- The window map of R51. -/
def region (addr : Byte) : Region :=
  let n := addr.toNat
  if n < 0x20 then .a n
  else if n < 0x40 then .b (n - 0x20)
  else if n < 0x80 then .t (n - 0x40)
  else if n < 0xA0 then .r (n - 0x80)
  else if n < 0xC0 then .p (n - 0xA0)
  else if n < 0xE0 then .rc (n - 0xC0)
  else if n = 0xE0 then .cmd
  else if n = 0xE1 then .status
  else .reserved

/-- The architectural byte at an address: what a read returns while BUSY = 0 (R56). -/
def windowByte (s : State) (addr : Byte) : Byte :=
  match region addr with
  | .a k => byteOf s.A k
  | .b k => byteOf s.B k
  | .t k => byteOf s.T k
  | .r k => byteOf s.R k
  | .p k => byteOf modulus k
  | .rc k => byteOf reducerConst k
  | .cmd => s.CMD
  | .status => statusByte s.STATUS
  | .reserved => 0x00

/-- What a read finds while BUSY = 1, `free` standing for an unspecified byte (R61 (b) to (e)). -/
def windowByteBusy (s : State) (addr free : Byte) : Byte :=
  match region addr with
  | .status => statusByteBusy s.STATUS free
  | .r _ => if s.OPL = encode .mul then windowByte s addr else free
  | .t _ => if s.OPL = encode .mul then free else windowByte s addr
  | _ => windowByte s addr

/-- The byte `HostRead(addr)` returns (R56, R61). -/
def hostRead (s : State) (addr : Byte) : Byte :=
  if s.STATUS.busy then windowByteBusy s addr (Config.freeByte s.draws) else windowByte s addr

/-- Acceptance of a valid command (R76), together with the choice of LATENCY (R214). The stored CB and PV are kept: they are
unspecified until `Complete` writes them and no read shows them (U11, log 8). -/
def acceptValid (s : State) (b : Byte) : State :=
  { s with
    CMD := b
    OPL := b
    STATUS := { s.STATUS with busy := true, done := false, ill := false }
    wait := Config.latency s.draws b s.A s.B s.T
    draws := s.draws + 1 }

/-- Acceptance of an invalid command: ILL, and nothing starts (R77). -/
def acceptInvalid (s : State) (b : Byte) : State :=
  { s with CMD := b, STATUS := { busy := s.STATUS.busy, done := false, cb := false, pv := false, ill := true } }

/-- A CMD write while BUSY = 0 (R25). -/
def issue (s : State) (b : Byte) : State :=
  match decode b with
  | .ok _ => acceptValid s b
  | .error _ => acceptInvalid s b

/-- `HostWrite(addr, b)` (R57); ignored at every address while BUSY = 1 (R61 (a)). -/
def hostWrite (s : State) (addr b : Byte) : State :=
  if s.STATUS.busy then s
  else
    match region addr with
    | .a k => { s with A := setByte s.A k b }
    | .b k => { s with B := setByte s.B k b }
    | .t k => { s with T := setByte s.T k b }
    | .cmd => issue s b
    | .r _ | .p _ | .rc _ | .status | .reserved => s

/-- `Reset` (R200), at any time, abandoning an operation in flight (R201); what it leaves unspecified is drawn afresh. -/
def hostReset (s : State) : State :=
  State.resetWith (Config.resetData s.draws) (s.draws + 1) s.script s.received

/-- The host receives a byte. A read changes no state of the block (R56); the draw counter moves on so that the next read is
unrelated (R61). -/
def hear (s : State) (b : Byte) : State :=
  { s with received := b :: s.received, draws := s.draws + 1 }

/-- The address of STATUS (R51). -/
def statusAddr : Byte := 0xE1

/-- The address of CMD (R51). -/
def cmdAddr : Byte := 0xE0

/-- One host action, the script's remainder being in `s` already (R79, R80, R200, R201). -/
def hostDo (s : State) : HostOp → State
  | .rd addr => hear s (hostRead s addr)
  | .wr addr b => hostWrite s addr b
  | .rdTo src dst =>
    { hear s (hostRead s src) with script := .wr dst (hostRead s src) :: s.script }
  | .poll =>
    if (hostRead s statusAddr).getLsbD 0 then { hear s (hostRead s statusAddr) with script := .poll :: s.script }
    else hear s (hostRead s statusAddr)
  | .reset => hostReset s
  | .resetRd _ => hear (hostReset s) (Config.freeByte s.draws)
  | .resetWr _ _ => hostReset s

/-- The host's turn: the next action of its script; a host with nothing to do leaves everything as it is (log 6). -/
def hostTurn (s : State) : State :=
  match s.script with
  | [] => s
  | op :: rest => hostDo { s with script := rest } op

/-- What every `Complete` step does to STATUS (R78): CB and PV written, BUSY <- 0, DONE <- 1, ILL stays. -/
def completeStatus (f : Status) (cb pv : Bool) : Status :=
  { busy := false, done := true, cb := cb, pv := pv, ill := f.ill }

/-- `Complete` of an operation whose destination is R (R35, R78). -/
def completeR (s : State) (v : U256) (cb pv : Bool) : State :=
  { s with R := v, STATUS := completeStatus s.STATUS cb pv }

/-- `Complete` of MUL, whose destination is T (R35, R78). -/
def completeT (s : State) (v : U512) (cb pv : Bool) : State :=
  { s with T := v, STATUS := completeStatus s.STATUS cb pv }

/-- The byte `Complete` decodes: the opcode latch (R31, R78). -/
def fetch (s : State) : Byte :=
  s.OPL

/-- `s` with the command byte `b` in flight and its `Complete` due at the next step: the acceptance of R76 with LATENCY 0. -/
def inFlight (s : State) (b : Byte) : State :=
  { s with CMD := b, OPL := b, STATUS := { s.STATUS with busy := true, done := false, ill := false }, wait := 0 }

end Sys2Proof.Machine
end

