-- ==== Sys2Proof/Machine/ModAddSub.lean ====
section
/-! DEFINITION. Modulus-corrected addition and subtraction, MADD and MSUB (spec/41_mod_addsub.md R110 to R114); the canon stage
is the spec's choice in spec/90_conflicts.md C2. -/

namespace Sys2Proof.Machine

/-- `canon(V)`: V - p if V >= p, else V, computed with the adder and r (R110). -/
def canon (v : U256) : U256 :=
  let (c, cy) := rawAdd v reducerConst
  if cy then c else v

/-- `addLit(X, Y)`: the value before the canon stage (R111). No command returns it. -/
def addLit (x y : U256) : U256 :=
  let (c, carry) := rawAdd x y
  if carry then (rawAdd c reducerConst).1 else c

/-- `subLit(X, Y)`: the value before the canon stage (R112). No command returns it. -/
def subLit (x y : U256) : U256 :=
  let (c, borrow) := rawSub x y
  if borrow then (rawAdd c modulus).1 else c

/-- `modAdd(X, Y) -> (Z, carry)` (R111). -/
def modAdd (x y : U256) : U256 × Bool :=
  (canon (addLit x y), (rawAdd x y).2)

/-- `modSub(X, Y) -> (Z, borrow)` (R112). -/
def modSub (x y : U256) : U256 × Bool :=
  (canon (subLit x y), (rawSub x y).2)

/-- MADD (R113): R <- modAdd(A, B), CB <- the raw stage's carry, PV per R182. -/
def execMadd (s : State) : Host.Outcome State Fault Refusal :=
  let (z, carry) := modAdd (operandA s) (operandB s)
  .next (completeR s z carry (pvModular (operandA s) (operandB s)))

/-- MSUB (R114): R <- modSub(A, B), CB <- the raw stage's borrow, PV per R182. -/
def execMsub (s : State) : Host.Outcome State Fault Refusal :=
  let (z, borrow) := modSub (operandA s) (operandB s)
  .next (completeR s z borrow (pvModular (operandA s) (operandB s)))

end Sys2Proof.Machine
end

