-- ==== Sys2Proof/Machine/Inverter.lean ====
section
/-! DEFINITION. The modular inverter, INV (spec/44_inverter.md R160 to R165). -/

namespace Sys2Proof.Machine

/-- The inverter's two pairs (U, X1) and (V, X2) (R160), local to one `Complete` step (R32, U9). -/
structure Pairs where
  U : U256
  X1 : U256
  V : U256
  X2 : U256
  deriving DecidableEq, Repr

/-- `halveMod(W)`: half of W modulo p, the carry of W + p entering bit 255 (R161). -/
def halveMod (w : U256) : U256 :=
  if isOdd w then
    let (s, c) := rawAdd w modulus
    shr1c c s
  else shr1 w

/-- Steps 1 and 2 of R160: halve u, and x modulo p with it, while u is even. The first argument is fuel; a non-zero u below
2^256 has at most 255 trailing zero bits, so 256 is never used up (R163; log 11). -/
def halveWhileEven : Nat → U256 → U256 → U256 × U256
  | 0, u, x => (u, x)
  | fuel + 1, u, x => if isEven u then halveWhileEven fuel (shr1 u) (halveMod x) else (u, x)

/-- Step 3 of R160: subtract the smaller from the larger, and the coefficients modulo p (R162). -/
def step3 (q : Pairs) : Pairs :=
  if geq q.U q.V then { q with U := (rawSub q.U q.V).1, X1 := (modSub q.X1 q.X2).1 }
  else { q with V := (rawSub q.V q.U).1, X2 := (modSub q.X2 q.X1).1 }

/-- Steps 1 and 2 of R160 on both pairs. -/
def halveBoth (q : Pairs) : Pairs :=
  let (u, x1) := halveWhileEven 256 q.U q.X1
  let (v, x2) := halveWhileEven 256 q.V q.X2
  { U := u, X1 := x1, V := v, X2 := x2 }

/-- One outer iteration of R160. -/
def invertRound (q : Pairs) : Pairs :=
  step3 (halveBoth q)

/-- The outer loop of R160, "while not isZero(U)". The first argument is fuel; R167 bounds the outer iterations by 511
(log 11). -/
def invertLoop : Nat → Pairs → Pairs
  | 0, q => q
  | fuel + 1, q => if isZero q.U then q else invertLoop fuel (invertRound q)

/-- The loop's start: (u, x1) = (X, 1), (v, x2) = (p, 0) (R160). -/
def invertStart (x : U256) : Pairs :=
  { U := x, X1 := 1, V := modulus, X2 := 0 }

/-- `invert(X)`: X2 at loop exit (R160, R164). -/
def invert (x : U256) : U256 :=
  (invertLoop 511 (invertStart x)).X2

/-- INV (R165): R <- invert(A), CB <- 0, PV per R182. -/
def execInv (s : State) : Host.Outcome State Fault Refusal :=
  .next (completeR s (invert (operandA s)) false (pvInverse (operandA s)))

/-- How many halvings `halveWhileEven` makes. Not architectural (R167, R216). -/
def halvings : Nat → U256 → Nat
  | 0, _ => 0
  | fuel + 1, u => if isEven u then halvings fuel (shr1 u) + 1 else 0

/-- Outer iterations and halvings of the loop from `q`, the two columns of 95_test_vectors.md section 2.6. Not
architectural. -/
def invertCounts : Nat → Pairs → Nat × Nat
  | 0, _ => (0, 0)
  | fuel + 1, q =>
    if isZero q.U then (0, 0)
    else
      let (outer, halved) := invertCounts fuel (invertRound q)
      (outer + 1, halved + halvings 256 q.U + halvings 256 q.V)

end Sys2Proof.Machine
end

