-- ==== Sys2Proof/Machine/Multiplier.lean ====
section
/-! DEFINITION. The wide multiplier, MUL (spec/43_multiplier.md R150, R152). -/

namespace Sys2Proof.Machine

/-- `multiply(X, Y)`: the exact 512-bit product (R150). -/
def multiply (x y : U256) : U512 :=
  x.setWidth 512 * y.setWidth 512

/-- MUL (R152): T <- A * B, CB <- 0, PV <- 0. -/
def execMul (s : State) : Host.Outcome State Fault Refusal :=
  .next (completeT s (multiply (operandA s) (operandB s)) false false)

end Sys2Proof.Machine
end

