-- ==== Sys2Proof/Machine/RawArith.lean ====
section
/-! DEFINITION. RADD and RSUB (spec/40_raw_arith.md R92, R93). -/

namespace Sys2Proof.Machine

/-- RADD (R92): R <- A + B, CB <- carry, PV <- 0. -/
def execRadd (s : State) : Host.Outcome State Fault Refusal :=
  let (c, carry) := rawAdd (operandA s) (operandB s)
  .next (completeR s c carry false)

/-- RSUB (R93): R <- A - B, CB <- borrow, PV <- 0. -/
def execRsub (s : State) : Host.Outcome State Fault Refusal :=
  let (c, borrow) := rawSub (operandA s) (operandB s)
  .next (completeR s c borrow false)

end Sys2Proof.Machine
end

