-- ==== Sys2Proof/Machine/Reducer.lean ====
section
/-! DEFINITION. The fast reducer, RED (spec/42_reducer.md R130, R132, R133). The slice table is the one R130 prints, which the
spec marks as general knowledge (G1, log 14). -/

namespace Sys2Proof.Machine

/-- The nine terms of R130. -/
structure Terms where
  T0 : U256
  S1 : U256
  S2 : U256
  S3 : U256
  S4 : U256
  D1 : U256
  D2 : U256
  D3 : U256
  D4 : U256
  deriving DecidableEq, Repr

/-- `terms(T)`: the slice table of R130, c k being word(T, k). -/
def terms (t : U512) : Terms :=
  let c := wordOf t
  { T0 := ofWords (c 7) (c 6) (c 5) (c 4) (c 3) (c 2) (c 1) (c 0)
    S1 := ofWords (c 15) (c 14) (c 13) (c 12) (c 11) 0 0 0
    S2 := ofWords 0 (c 15) (c 14) (c 13) (c 12) 0 0 0
    S3 := ofWords (c 15) (c 14) 0 0 0 (c 10) (c 9) (c 8)
    S4 := ofWords (c 8) (c 13) (c 15) (c 14) (c 13) (c 11) (c 10) (c 9)
    D1 := ofWords (c 10) (c 8) 0 0 0 (c 13) (c 12) (c 11)
    D2 := ofWords (c 11) (c 9) 0 0 (c 15) (c 14) (c 13) (c 12)
    D3 := ofWords (c 12) 0 (c 10) (c 9) (c 8) (c 15) (c 14) (c 13)
    D4 := ofWords (c 13) 0 (c 11) (c 10) (c 9) 0 (c 15) (c 14) }

/-- The terms added, in R132's order: S1, S1, S2, S2, S3, S4 (90_conflicts.md C1). -/
def Terms.added (x : Terms) : List U256 :=
  [x.S1, x.S1, x.S2, x.S2, x.S3, x.S4]

/-- The terms subtracted, in R132's order. -/
def Terms.subtracted (x : Terms) : List U256 :=
  [x.D1, x.D2, x.D3, x.D4]

/-- One addition of R132: ACC <- modAdd(ACC, canon(TERM)). -/
def reduceAdd (acc term : U256) : U256 :=
  (modAdd acc (canon term)).1

/-- One subtraction of R132: ACC <- modSub(ACC, canon(TERM)). -/
def reduceSub (acc term : U256) : U256 :=
  (modSub acc (canon term)).1

/-- `reduce(T)` (R132): the seed canonicalised, six additions, four subtractions. -/
def reduce (t : U512) : U256 :=
  let x := terms t
  x.subtracted.foldl reduceSub (x.added.foldl reduceAdd (canon x.T0))

/-- `reduceLit(T)`: R132 with every canon removed (R136). No command returns it: "wrong and must not be modelled" as RED. -/
def reduceLit (t : U512) : U256 :=
  let x := terms t
  x.subtracted.foldl subLit (x.added.foldl addLit x.T0)

/-- RED (R133): R <- reduce(T), CB <- 0, PV <- 0. -/
def execRed (s : State) : Host.Outcome State Fault Refusal :=
  .next (completeR s (reduce (operandT s)) false false)

end Sys2Proof.Machine
end

