-- ==== Sys2Proof/Machine/Dispatch.lean ====
section
/-! DEFINITION. The meaning of each command: its `Complete` step (spec/30_encoding.md R78). -/

namespace Sys2Proof.Machine

def exec (i : Instr) (s : State) : Host.Outcome State Fault Refusal :=
  match i with
  | .radd => Sys2Proof.Machine.execRadd s
  | .rsub => Sys2Proof.Machine.execRsub s
  | .madd => Sys2Proof.Machine.execMadd s
  | .msub => Sys2Proof.Machine.execMsub s
  | .mul => Sys2Proof.Machine.execMul s
  | .red => Sys2Proof.Machine.execRed s
  | .inv => Sys2Proof.Machine.execInv s

end Sys2Proof.Machine
end

