-- ==== Sys2Proof/Machine/Schedule.lean ====
section
/-! DEFINITION. The core's `Complete` step and its interleaving with the host (spec/00_scope.md R6, spec/30_encoding.md R78,
spec/60_exceptions.md R184). -/

namespace Sys2Proof.Machine

/-- The core's step (R78): the command OPL holds is carried out. -/
def completeStep (s : State) : Host.Outcome State Fault Refusal :=
  match decode (fetch s) with
  | .ok i => exec i s
  | .error _ => .fault (.opcodeLatchInvalid (fetch s))

/-- Whose step it is. While BUSY = 0 the host takes its turn; while BUSY = 1 the host takes its turn LATENCY times and then
`Complete` happens (R78, R184 (b); log 4). -/
def schedule (s : State) : Host.Outcome State Fault Refusal :=
  match s.STATUS.busy, s.wait with
  | false, _ => .next (hostTurn s)
  | true, n + 1 => .next (hostTurn { s with wait := n })
  | true, 0 => completeStep s

end Sys2Proof.Machine
end

