-- ==== Sys2Proof/Machine/Step.lean ====
section
/-! DEFINITION. One step of the machine, and how a command is placed for the next step to run. -/

namespace Sys2Proof.Machine

/-- One step: the core's `Complete` or the host's turn (spec/00_scope.md R6). -/
def step (s : State) : Host.Outcome State Fault Refusal :=
  schedule s

/-- `s` with the command the table's bits `w` stand for accepted and due at the next step, so that `step` runs exactly it: what
`step` fetches is the opcode latch of an operation in flight (log 15). -/
def State.withFetchWord (s : State) (nbits w : Nat) : State :=
  inFlight s (tableByte nbits w)

end Sys2Proof.Machine
end

