-- ==== Sys2Proof/Machine/ByteSerial.lean ====
section
/-! DEFINITION. The byte-serial forms the source describes (spec/40_raw_arith.md R90, R91, R96, R97; spec/43_multiplier.md
R151). The commands use the integer forms; that the two are equal is stated as obligations. -/

namespace Sys2Proof.Machine

/-- One round of R90's loop: byte k of the sum and the carry into byte k + 1. -/
def rawAddRound (x y : U256) (acc : U256 × Bool) (k : Nat) : U256 × Bool :=
  let s := (byteOf x k).toNat + (byteOf y k).toNat + acc.2.toNat
  (setByte acc.1 k (BitVec.ofNat 8 (s % 256)), decide (s / 256 = 1))

/-- The byte-serial adder of R90, least-significant byte first. -/
def rawAddSerial (x y : U256) : U256 × Bool :=
  (List.range 32).foldl (rawAddRound x y) (0, false)

/-- One round of R91's loop: byte k of the difference and the borrow from byte k + 1. -/
def rawSubRound (x y : U256) (acc : U256 × Bool) (k : Nat) : U256 × Bool :=
  let d : Int := (byteOf x k).toNat - (byteOf y k).toNat - acc.2.toNat
  (setByte acc.1 k (BitVec.ofNat 8 (d % 256).toNat), decide (d < 0))

/-- The byte-serial subtractor of R91. -/
def rawSubSerial (x y : U256) : U256 × Bool :=
  (List.range 32).foldl (rawSubRound x y) (0, false)

/-- The comparison of R96 over the low n bytes: the first differing byte from the top decides. -/
def geqScan : Nat → U256 → U256 → Bool
  | 0, _, _ => true
  | k + 1, x, y =>
    if byteOf x k = byteOf y k then geqScan k x y
    else decide ((byteOf y k).toNat < (byteOf x k).toNat)

/-- The byte-serial comparison of R96, from byte 31 down. -/
def geqSerial (x y : U256) : Bool :=
  geqScan 32 x y

/-- Byte k of the byte-serial shift of R97, byte 32 taken as 0. -/
def shr1Byte (x : U256) (k : Nat) : Byte :=
  (byteOf x k >>> 1) ||| ((byteOf x (k + 1) &&& 1) <<< 7)

/-- The byte-serial shift of R97. -/
def shr1Serial (x : U256) : U256 :=
  (List.range 32).foldl (fun acc k => setByte acc k (shr1Byte x k)) 0

/-- The inner `while` of R151: adds v into T at byte position k, rippling upward. The first argument is fuel: v loses a byte
each round, but a carry may ripple to byte 63, so 64 rounds always suffice. -/
def rippleAdd : Nat → U512 → Nat → Nat → U512
  | 0, t, _, _ => t
  | fuel + 1, t, k, v =>
    if v = 0 then t
    else
      let s := (byteOf t k).toNat + v
      rippleAdd fuel (setByte t k (BitVec.ofNat 8 (s % 256))) (k + 1) (s / 256)

/-- One pair (i, j) of R151. -/
def multiplyPair (x y : U256) (t : U512) (i j : Nat) : U512 :=
  rippleAdd 64 t (i + j) ((byteOf x i).toNat * (byteOf y j).toNat)

/-- The schoolbook multiplier of R151, in the order R151 writes. -/
def multiplySerial (x y : U256) : U512 :=
  (List.range 32).foldl (fun t i => (List.range 32).foldl (fun t j => multiplyPair x y t i j) t) 0

end Sys2Proof.Machine
end

