-- ==== Sys2Proof/Machine/Script.lean ====
section
/-! DEFINITION. The expansions of the host script's pseudo-instructions (spec/30_encoding.md R80). -/

namespace Sys2Proof.Machine

/-- The address base + k. -/
def addrAt (base k : Nat) : Byte :=
  BitVec.ofNat 8 (base + k)

/-- `WR base+k, byte(X, k)` for k = 0 .. n - 1 in that order (LD rows of R80). -/
def loadOps {w : Nat} (base n : Nat) (x : BitVec w) : List HostOp :=
  (List.range n).map fun k => .wr (addrAt base k) (byteOf x k)

/-- `RD base+k` for k = 0 .. n - 1 (ST rows of R80). -/
def storeOps (base n : Nat) : List HostOp :=
  (List.range n).map fun k => .rd (addrAt base k)

/-- For k = 0 .. 31: `RD 0x80+k` then `WR base+k,` the byte read (CP rows of R80). -/
def copyOps (base : Nat) : List HostOp :=
  (List.range 32).map fun k => .rdTo (addrAt 0x80 k) (addrAt base k)

/-- The expansion table of R80. -/
def expand : Pseudo → List HostOp
  | .ldA x => loadOps 0x00 32 x
  | .ldB x => loadOps 0x20 32 x
  | .ldT y => loadOps 0x40 64 y
  | .run m => [.wr cmdAddr (encode m)]
  | .wait => [.poll]
  | .cmd m => [.wr cmdAddr (encode m), .poll]
  | .stR => storeOps 0x80 32
  | .stT => storeOps 0x40 64
  | .flags => [.rd statusAddr]
  | .cpRA => copyOps 0x00
  | .cpRB => copyOps 0x20
  | .reset => [.reset]

/-- A script: its lines are executed in order (R79). -/
def expandAll (lines : List Pseudo) : List HostOp :=
  lines.flatMap expand

/-- The value v of `ST.R -> v` and `ST.T -> v`: nat of the last n bytes read (R80), first read least significant. -/
def lastRead (s : State) (n : Nat) : Nat :=
  natOfBytes (s.received.take n).reverse

/-- How a host loads a big-endian string: A.byte[k] <- s[31 - k] (R54, R210). -/
def loadBigEndianA (bytes : List Byte) : List HostOp :=
  (List.range 32).map fun k => .wr (addrAt 0x00 k) (bytes.getD (31 - k) 0)

/-- The machine with a host script placed for it to run: how a program is loaded (log 5). -/
def State.withScript (s : State) (lines : List Pseudo) : State :=
  { s with script := expandAll lines }

end Sys2Proof.Machine
end

