-- ==== Sys2Proof/Safety.lean ====
section
/-! DEFINITION. What a legal state and an operation in domain are, in the terms the obligations use. -/

namespace Sys2Proof.Machine

/-- The operands meet the source's precondition for the operation (spec/60_exceptions.md R182). -/
def InDomain : Instr → State → Prop
  | .madd, s | .msub, s => s.A.toNat < pNat ∧ s.B.toNat < pNat
  | .inv, s => 0 < s.A.toNat ∧ s.A.toNat < pNat
  | .radd, _ | .rsub, _ | .mul, _ | .red, _ => True

/-- The commands whose `Complete` writes 0 to CB (R27). -/
def clearsCB : Instr → Bool
  | .mul | .red | .inv => true
  | .radd | .rsub | .madd | .msub => false

/-- The commands whose `Complete` writes 0 to PV whatever the operands (R182). -/
def clearsPV : Instr → Bool
  | .radd | .rsub | .mul | .red => true
  | .madd | .msub | .inv => false

/-- The commands whose result in R is canonical whatever the operands: R116 and R168 give values below p out of domain too. -/
def canonicalR : Instr → Bool
  | .madd | .msub | .red | .inv => true
  | .radd | .rsub | .mul => false

/-- What the spec promises of the control state in every state a run reaches. -/
structure Legal (s : State) : Prop where
  /-- "BUSY and DONE are never both 1" (R26). -/
  notBusyDone : s.STATUS.busy = true → s.STATUS.done = false
  /-- ILL is 0 while an operation is in flight (R61 (c)). -/
  busyNotIll : s.STATUS.busy = true → s.STATUS.ill = false
  /-- OPL was loaded with a valid command (R31, R76). -/
  latchValid : s.STATUS.busy = true → (decode s.OPL).isOk = true
  /-- CMD keeps the command byte while BUSY = 1 (R25, R61). -/
  commandKept : s.STATUS.busy = true → s.CMD = s.OPL
  /-- The latency countdown runs only while an operation is in flight. -/
  idleNoWait : s.STATUS.busy = false → s.wait = 0
  /-- ILL = 1 means DONE, CB and PV were cleared (R77, R184 (c)). -/
  illAlone : s.STATUS.ill = true → s.STATUS.done = false ∧ s.STATUS.cb = false ∧ s.STATUS.pv = false
  /-- ILL = 1 means CMD holds the offending byte (R181). -/
  illCommand : s.STATUS.ill = true → (decode s.CMD).isOk = false
  /-- While idle, CB or PV is 1 only after a `Complete` (R26). -/
  flagsFromComplete : s.STATUS.busy = false → s.STATUS.cb = true ∨ s.STATUS.pv = true → s.STATUS.done = true
  /-- DONE = 1 means the last accepted CMD write was a valid command (R26). -/
  doneCommand : s.STATUS.done = true → (decode s.CMD).isOk = true
  /-- CB is "0 after MUL, RED, INV" (R26). -/
  clearedCB : ∀ i, s.STATUS.done = true → decode s.CMD = .ok i → clearsCB i = true → s.STATUS.cb = false
  /-- PV is 0 after the commands without a precondition (R182). -/
  clearedPV : ∀ i, s.STATUS.done = true → decode s.CMD = .ok i → clearsPV i = true → s.STATUS.pv = false
  /-- R is below p after MADD, MSUB, RED or INV (R211; out of domain R116, R168). -/
  resultCanonical : ∀ i, s.STATUS.done = true → decode s.CMD = .ok i → canonicalR i = true → s.R.toNat < pNat

/-- The invariant of the inverter's loop for the argument x (spec/44_inverter.md R166), with the fact that makes (c) survive a
halving: U and V are never both even at the head of the loop (R162, R166). -/
structure InvertInv (x : U256) (q : Pairs) : Prop where
  /-- (a) X1 * X ≡ U (mod p). -/
  first : q.X1.toNat * x.toNat ≡ q.U.toNat [MOD pNat]
  /-- (a) X2 * X ≡ V (mod p). -/
  second : q.X2.toNat * x.toNat ≡ q.V.toNat [MOD pNat]
  /-- (b) X1 is in [0, p). -/
  canonicalX1 : q.X1.toNat < pNat
  /-- (b) X2 is in [0, p). -/
  canonicalX2 : q.X2.toNat < pNat
  /-- (c) gcd(U, V) = gcd(X, p). -/
  gcdKept : Nat.gcd q.U.toNat q.V.toNat = Nat.gcd x.toNat pNat
  /-- (d) V >= 1. -/
  positiveV : 1 ≤ q.V.toNat
  /-- U or V is odd. -/
  oneOdd : isOdd q.U = true ∨ isOdd q.V = true

/-- The host actions that assert Reset, alone or with a coinciding access (R200, R201). -/
def isReset : HostOp → Bool
  | .reset | .resetRd _ | .resetWr _ _ => true
  | .rd _ | .wr _ _ | .rdTo _ _ | .poll => false

/-- The two states agree on everything the spec gives the block (R20) and on what is in flight; the host's script, what it has
read and the draw counter may differ. -/
def SameBlock (s t : State) : Prop :=
  t.A = s.A ∧ t.B = s.B ∧ t.T = s.T ∧ t.R = s.R ∧ t.CMD = s.CMD ∧ t.STATUS = s.STATUS ∧ t.OPL = s.OPL ∧ t.wait = s.wait

/-- `n` steps of the machine, stopping at a fault or a refusal. -/
def run : Nat → State → Host.Outcome State Fault Refusal
  | 0, s => .next s
  | n + 1, s =>
    match step s with
    | .next t => run n t
    | .fault r => .fault r
    | .refused r => .refused r

/-- A safe step: the machine answers a next state, neither a fault nor a refusal. -/
def SafeStep (s : State) : Prop :=
  ∃ t, step s = .next t

end Sys2Proof.Machine
end

