-- ==== Sys2Proof/Certificates/Slice0/Obligations.lean ====
section
/-! DEFINITION. The statements for the provers. Each docstring names the rules of spec/ it formalises. -/

open Sys2Proof Sys2Proof.Machine

/-! ### Encoding -/

/-- R75: the decoder is total, decode and encode are inverse on the seven valid values, every other byte is Invalid. -/
def Obligations.DecodeIsTotalAndInverse : Prop :=
  (decode 0x01 = .ok .radd ∧ decode 0x02 = .ok .rsub ∧ decode 0x03 = .ok .madd ∧ decode 0x04 = .ok .msub ∧
    decode 0x05 = .ok .mul ∧ decode 0x06 = .ok .red ∧ decode 0x07 = .ok .inv) ∧
  ∀ b : Byte,
    (∀ i, decode b = .ok i ↔ encode i = b) ∧
    ((∃ i, decode b = .ok i) ↔ 1 ≤ b.toNat ∧ b.toNat ≤ 7) ∧
    (decode b = .error (.invalidCommand b) ↔ b.toNat = 0 ∨ 8 ≤ b.toNat)

/-- R73: the opcode map word by word, and bytes beside it (R71: 0x81 is not RADD with a flag). -/
def Obligations.OpcodeMapWords : Prop :=
  decode 0b00000001 = .ok .radd ∧ decode 0b00000010 = .ok .rsub ∧ decode 0b00000011 = .ok .madd ∧
  decode 0b00000100 = .ok .msub ∧ decode 0b00000101 = .ok .mul ∧ decode 0b00000110 = .ok .red ∧
  decode 0b00000111 = .ok .inv ∧ decode 0x00 = .error (.invalidCommand 0x00) ∧
  decode 0x08 = .error (.invalidCommand 0x08) ∧ decode 0x81 = .error (.invalidCommand 0x81) ∧
  decode 0xFF = .error (.invalidCommand 0xFF)

/-! ### A step and what it runs -/

/-- R78: while BUSY = 1 and no host step is left of LATENCY, a step is the meaning of the command OPL decodes to, nothing added
around it. -/
def Obligations.StepRunsDecodedInstruction : Prop :=
  ∀ (s : State) (i : Instr), s.STATUS.busy = true → s.wait = 0 → i.wellFormed = true →
    decode (fetch s) = .ok i → step s = exec i s

/-- R6, R184 (b): every other step is the host's turn, and while BUSY = 1 it uses up one host step of LATENCY. -/
def Obligations.StepIsHostTurnOtherwise : Prop :=
  ∀ s : State,
    (s.STATUS.busy = false → step s = .next (hostTurn s)) ∧
    (∀ n, s.STATUS.busy = true → s.wait = n + 1 → step s = .next (hostTurn { s with wait := n }))

/-- The placed command word is what the next step runs, on the same A, B, T and R (log 15). -/
def Obligations.FetchWordIsRunNext : Prop :=
  ∀ (s : State) (i : Instr),
    let t := s.withFetchWord 8 (encode i).toNat
    step t = exec i t ∧ t.A = s.A ∧ t.B = s.B ∧ t.T = s.T ∧ t.R = s.R

/-- R64, R76, R78: a command written to CMD while idle is in flight, and the step at which its latency has run out is its
meaning. -/
def Obligations.AcceptedCommandRunsItsInstruction : Prop :=
  ∀ (s : State) (i : Instr), s.STATUS.busy = false →
    let t := hostWrite s cmdAddr (encode i)
    t.STATUS.busy = true ∧ fetch t = encode i ∧ (t.wait = 0 → step t = exec i t) ∧
      ∀ u : State, u.STATUS = t.STATUS → u.OPL = t.OPL → u.wait = 0 → step u = exec i u

/-- R79, R80, R200, R201: what each primitive of the host script does at the host's turn. These clauses are the model's: the
script and the list of bytes received (log 5), the turn of an empty script (log 6), a Reset that coincides with an access
(log 7), WAIT's poll and CP's RD and WR pair as one operation each (log 12), the draw counter's increments (log 16), and the
free values of an unspecified byte (log 1) and of what Reset leaves (log 3). -/
def Obligations.HostTurnRunsTheScript : Prop :=
  ∀ (s : State) (rest : List HostOp),
    (s.script = [] → hostTurn s = s) ∧
    (∀ addr, s.script = .rd addr :: rest →
      hostTurn s = { s with script := rest, received := hostRead s addr :: s.received, draws := s.draws + 1 }) ∧
    (∀ addr b, s.script = .wr addr b :: rest → hostTurn s = { hostWrite s addr b with script := rest }) ∧
    (∀ src dst, s.script = .rdTo src dst :: rest →
      hostTurn s = { s with script := .wr dst (hostRead s src) :: rest
                            received := hostRead s src :: s.received
                            draws := s.draws + 1 }) ∧
    (s.script = .poll :: rest →
      hostTurn s = { s with script := if s.STATUS.busy then .poll :: rest else rest
                            received := hostRead s statusAddr :: s.received
                            draws := s.draws + 1 }) ∧
    (s.script = .reset :: rest → hostTurn s = { hostReset s with script := rest }) ∧
    (∀ addr b, s.script = .resetWr addr b :: rest → hostTurn s = { hostReset s with script := rest }) ∧
    (∀ addr, s.script = .resetRd addr :: rest →
      hostTurn s = { hostReset s with script := rest
                                      received := Config.freeByte s.draws :: s.received
                                      draws := s.draws + 2 })

/-! ### Issue, lock-out and the register window -/

/-- R76: acceptance of a valid command; CB and PV read as unspecified bits from then on (R61 (c)). The two clauses on CB and PV
are the model's: an unspecified bit is a bit of the free value `Config.freeByte` (log 1), and they speak of what a host reads
because the stored bits are kept (log 8). -/
def Obligations.ValidCommandIsAccepted : Prop :=
  ∀ (s : State) (b : Byte) (i : Instr), s.STATUS.busy = false → decode b = .ok i →
    let t := hostWrite s cmdAddr b
    t.CMD = b ∧ t.OPL = b ∧ t.STATUS.busy = true ∧ t.STATUS.done = false ∧ t.STATUS.ill = false ∧
      t.A = s.A ∧ t.B = s.B ∧ t.T = s.T ∧ t.R = s.R ∧
      (hostRead t statusAddr).getLsbD 2 = (Config.freeByte t.draws).getLsbD 2 ∧
      (hostRead t statusAddr).getLsbD 3 = (Config.freeByte t.draws).getLsbD 3

/-- R77: acceptance of an invalid command: ILL, DONE, CB and PV cleared, nothing started, STATUS reads 0x10; and ILL stays 1
until the next accepted CMD write or reset. -/
def Obligations.InvalidCommandSetsIll : Prop :=
  (∀ (s : State) (b : Byte) (e : DecodeError), s.STATUS.busy = false → decode b = .error e →
    let t := hostWrite s cmdAddr b
    t = { s with CMD := b, STATUS := { busy := false, done := false, cb := false, pv := false, ill := true } } ∧
      hostRead t statusAddr = 0x10 ∧ step t = .next (hostTurn t)) ∧
  (∀ s t : State, s.STATUS.busy = false → s.STATUS.ill = true → step s = .next t →
    t.STATUS.ill = true ∨
      ∃ op rest, s.script = op :: rest ∧ (isReset op = true ∨ ∃ b, op = .wr cmdAddr b))

/-- R61 (a), R206: a write while BUSY = 1 is lost without trace, at every address. -/
def Obligations.BusyDropsEveryWrite : Prop :=
  ∀ (s : State) (addr b : Byte), s.STATUS.busy = true → hostWrite s addr b = s

/-- R61 (b) to (e): what a read returns while BUSY = 1. `Config.freeByte` is the model's free value for "unspecified"
(log 1). -/
def Obligations.BusyReads : Prop :=
  ∀ (s : State) (addr : Byte), s.STATUS.busy = true →
    (addr.toNat < 0x40 ∨ 0xA0 ≤ addr.toNat ∧ addr ≠ statusAddr → hostRead s addr = windowByte s addr) ∧
    (0x40 ≤ addr.toNat → addr.toNat < 0x80 → s.OPL = encode .mul → hostRead s addr = Config.freeByte s.draws) ∧
    (0x40 ≤ addr.toNat → addr.toNat < 0x80 → s.OPL ≠ encode .mul → hostRead s addr = windowByte s addr) ∧
    (0x80 ≤ addr.toNat → addr.toNat < 0xA0 → s.OPL = encode .mul → hostRead s addr = windowByte s addr) ∧
    (0x80 ≤ addr.toNat → addr.toNat < 0xA0 → s.OPL ≠ encode .mul → hostRead s addr = Config.freeByte s.draws) ∧
    (Legal s → addr = statusAddr →
      hostRead s addr = 0x01 ||| (Config.freeByte s.draws &&& 0x0C))

/-- R56, R51: what a read returns while BUSY = 0, at every address; and a read changes nothing of the block. -/
def Obligations.IdleReads : Prop :=
  ∀ (s : State) (addr : Byte), s.STATUS.busy = false →
    (addr.toNat < 0x20 → hostRead s addr = byteOf s.A addr.toNat) ∧
    (0x20 ≤ addr.toNat → addr.toNat < 0x40 → hostRead s addr = byteOf s.B (addr.toNat - 0x20)) ∧
    (0x40 ≤ addr.toNat → addr.toNat < 0x80 → hostRead s addr = byteOf s.T (addr.toNat - 0x40)) ∧
    (0x80 ≤ addr.toNat → addr.toNat < 0xA0 → hostRead s addr = byteOf s.R (addr.toNat - 0x80)) ∧
    (0xA0 ≤ addr.toNat → addr.toNat < 0xC0 → hostRead s addr = byteOf modulus (addr.toNat - 0xA0)) ∧
    (0xC0 ≤ addr.toNat → addr.toNat < 0xE0 → hostRead s addr = byteOf reducerConst (addr.toNat - 0xC0)) ∧
    (addr = 0xE0 → hostRead s addr = s.CMD) ∧
    (addr = 0xE1 → hostRead s addr = statusByte s.STATUS) ∧
    (0xE2 ≤ addr.toNat → hostRead s addr = 0x00) ∧
    (∀ rest, s.script = .rd addr :: rest → SameBlock s (hostTurn s))

/-- R57: what a write does, at every address. -/
def Obligations.HostWrites : Prop :=
  ∀ (s : State) (addr b : Byte),
    (s.STATUS.busy = true → hostWrite s addr b = s) ∧
    (s.STATUS.busy = false →
      (addr.toNat < 0x20 → hostWrite s addr b = { s with A := setByte s.A addr.toNat b }) ∧
      (0x20 ≤ addr.toNat → addr.toNat < 0x40 → hostWrite s addr b = { s with B := setByte s.B (addr.toNat - 0x20) b }) ∧
      (0x40 ≤ addr.toNat → addr.toNat < 0x80 → hostWrite s addr b = { s with T := setByte s.T (addr.toNat - 0x40) b }) ∧
      (addr = 0xE0 → hostWrite s addr b = issue s b) ∧
      (0x80 ≤ addr.toNat → addr ≠ 0xE0 → hostWrite s addr b = s))

/-- R57, R58, R59: while idle a write below 0x80 is read back and leaves every other byte of the window alone; a write to R, P,
RC, STATUS or the reserved range leaves every byte of the window alone. -/
def Obligations.WindowReadAfterWrite : Prop :=
  ∀ (s : State) (addr other b : Byte), s.STATUS.busy = false →
    (addr.toNat < 0x80 → windowByte (hostWrite s addr b) other = if other = addr then b else windowByte s other) ∧
    (0x80 ≤ addr.toNat → addr ≠ cmdAddr → windowByte (hostWrite s addr b) other = windowByte s other)

/-- R52: the value of each multi-byte register in terms of its window bytes. -/
def Obligations.RegistersAreTheirWindowBytes : Prop :=
  ∀ s : State,
    s.A.toNat = ∑ k ∈ Finset.range 32, 2 ^ (8 * k) * (windowByte s (addrAt 0x00 k)).toNat ∧
    s.B.toNat = ∑ k ∈ Finset.range 32, 2 ^ (8 * k) * (windowByte s (addrAt 0x20 k)).toNat ∧
    s.T.toNat = ∑ k ∈ Finset.range 64, 2 ^ (8 * k) * (windowByte s (addrAt 0x40 k)).toNat ∧
    s.R.toNat = ∑ k ∈ Finset.range 32, 2 ^ (8 * k) * (windowByte s (addrAt 0x80 k)).toNat ∧
    modulus.toNat = ∑ k ∈ Finset.range 32, 2 ^ (8 * k) * (windowByte s (addrAt 0xA0 k)).toNat ∧
    reducerConst.toNat = ∑ k ∈ Finset.range 32, 2 ^ (8 * k) * (windowByte s (addrAt 0xC0 k)).toNat

/-- R5, R30: the hardwired constants are p and r = 2^256 mod p = 2^256 - p. -/
def Obligations.ConstantsAreTheFormulas : Prop :=
  modulus.toNat = 2 ^ 256 - 2 ^ 224 + 2 ^ 192 + 2 ^ 96 - 1 ∧
  reducerConst.toNat = 2 ^ 224 - 2 ^ 192 - 2 ^ 96 + 1 ∧
  reducerConst.toNat = 2 ^ 256 % modulus.toNat ∧
  modulus.toNat + reducerConst.toNat = 2 ^ 256

/-! ### Reset -/

/-- R200, R202: whatever Reset leaves in the registers it does not define, the block is idle and ready: STATUS and CMD read
0x00, a data write takes effect and a command is accepted. Nothing rests on the values State.reset names (log 2). -/
def Obligations.ResetLeavesBlockReady : Prop :=
  ∀ (d : ResetData) (n : Nat) (ops : List HostOp) (bs : List Byte),
    let s := State.resetWith d n ops bs
    s.STATUS.busy = false ∧ hostRead s statusAddr = 0x00 ∧ hostRead s cmdAddr = 0x00 ∧ step s = .next (hostTurn s) ∧
      (∀ addr b : Byte, addr.toNat < 0x80 → hostRead (hostWrite s addr b) addr = b) ∧
      (∀ i, (hostWrite s cmdAddr (encode i)).STATUS.busy = true ∧ (hostWrite s cmdAddr (encode i)).OPL = encode i)

/-- R200, R201, R34: a Reset at any turn of the host, of an idle block or abandoning an operation in flight: STATUS and CMD are
0x00, the constants are unaffected, no `Complete` follows, and the access it coincides with has no effect that survives.
The model's own, in each of the three forms: what Reset leaves in A, B, T, R and OPL is the free value `Config.resetData`
(log 3), the byte a coinciding read yields, and only such a read, is the free value `Config.freeByte` (log 1), and a Reset that
coincides with an access is one script operation (log 7); whose turn a step is follows the countdown of LATENCY (log 4), and the
draw counter moves on (log 16). -/
def Obligations.ResetAbandonsOperation : Prop :=
  ∀ (s : State) (rest : List HostOp), (s.STATUS.busy = true → 0 < s.wait) →
    let d := Config.resetData s.draws
    (s.script = .reset :: rest → step s = .next (State.resetWith d (s.draws + 1) rest s.received)) ∧
    (∀ addr b, s.script = .resetWr addr b :: rest →
      step s = .next (State.resetWith d (s.draws + 1) rest s.received)) ∧
    (∀ addr, s.script = .resetRd addr :: rest →
      step s = .next (State.resetWith d (s.draws + 2) rest (Config.freeByte s.draws :: s.received))) ∧
    ∀ (n : Nat) (bs : List Byte),
      let t := State.resetWith d n rest bs
      t.STATUS = Status.zero ∧ t.CMD = 0x00 ∧ hostRead t statusAddr = 0x00 ∧ hostRead t cmdAddr = 0x00 ∧
        t.A = d.A ∧ t.B = d.B ∧ t.T = d.T ∧ t.R = d.R ∧ t.OPL = d.OPL ∧
        t.wait = 0 ∧ t.draws = n ∧ t.script = rest ∧ t.received = bs ∧
        (∀ addr : Byte, 0xA0 ≤ addr.toNat → addr.toNat < 0xE0 → hostRead t addr = windowByte s addr) ∧
        step t = .next (hostTurn t)

/-! ### Completion of each command, with its frame -/

/-- R92: RADD. -/
def Obligations.RaddResult : Prop :=
  encode .radd = 0x01 ∧ ∀ s : State,
    exec .radd s = .next { s with
      R := BitVec.ofNat 256 ((s.A.toNat + s.B.toNat) % 2 ^ 256)
      STATUS := { busy := false, done := true, cb := decide (2 ^ 256 ≤ s.A.toNat + s.B.toNat), pv := false,
                  ill := s.STATUS.ill } }

/-- R93: RSUB. -/
def Obligations.RsubResult : Prop :=
  encode .rsub = 0x02 ∧ ∀ s : State,
    exec .rsub s = .next { s with
      R := BitVec.ofInt 256 ((s.A.toNat : Int) - s.B.toNat)
      STATUS := { busy := false, done := true, cb := decide (s.A.toNat < s.B.toNat), pv := false,
                  ill := s.STATUS.ill } }

/-- R113, R115, R182: MADD writes modAdd(A, B), which in domain is (A + B) mod p; CB is the raw stage's carry; PV tells whether
an operand was not below p. -/
def Obligations.MaddResult : Prop :=
  encode .madd = 0x03 ∧ ∀ s : State,
    exec .madd s = .next { s with
      R := (modAdd s.A s.B).1
      STATUS := { busy := false, done := true, cb := decide (2 ^ 256 ≤ s.A.toNat + s.B.toNat),
                  pv := decide (pNat ≤ s.A.toNat ∨ pNat ≤ s.B.toNat), ill := s.STATUS.ill } } ∧
    (InDomain .madd s → (modAdd s.A s.B).1.toNat = (s.A.toNat + s.B.toNat) % pNat)

/-- R114, R115, R182: MSUB. -/
def Obligations.MsubResult : Prop :=
  encode .msub = 0x04 ∧ ∀ s : State,
    exec .msub s = .next { s with
      R := (modSub s.A s.B).1
      STATUS := { busy := false, done := true, cb := decide (s.A.toNat < s.B.toNat),
                  pv := decide (pNat ≤ s.A.toNat ∨ pNat ≤ s.B.toNat), ill := s.STATUS.ill } } ∧
    (InDomain .msub s → ((modSub s.A s.B).1.toNat : Int) = ((s.A.toNat : Int) - s.B.toNat) % pNat)

/-- R152, R150: MUL writes the exact product to all of T. -/
def Obligations.MulResult : Prop :=
  encode .mul = 0x05 ∧ ∀ s : State,
    exec .mul s = .next { s with
      T := BitVec.ofNat 512 (s.A.toNat * s.B.toNat)
      STATUS := { busy := false, done := true, cb := false, pv := false, ill := s.STATUS.ill } } ∧
    (BitVec.ofNat 512 (s.A.toNat * s.B.toNat)).toNat = s.A.toNat * s.B.toNat

/-- R133, R134: RED writes T mod p, for every T: the Solinas decomposition with canonicalised terms is the residue. -/
def Obligations.RedResult : Prop :=
  encode .red = 0x06 ∧ ∀ s : State,
    exec .red s = .next { s with
      R := BitVec.ofNat 256 (s.T.toNat % pNat)
      STATUS := { busy := false, done := true, cb := false, pv := false, ill := s.STATUS.ill } }

/-- R165, R166, R168: INV writes the one inverse of A modulo p where A is no multiple of p, and 0 where it is; PV = 1 exactly for
A = 0 and A >= p. -/
def Obligations.InvResult : Prop :=
  encode .inv = 0x07 ∧ ∀ s : State,
    exec .inv s = .next { s with
      R := invert s.A
      STATUS := { busy := false, done := true, cb := false,
                  pv := decide (s.A.toNat = 0 ∨ pNat ≤ s.A.toNat), ill := s.STATUS.ill } } ∧
    (invert s.A).toNat < pNat ∧
    (s.A.toNat % pNat ≠ 0 →
      1 ≤ (invert s.A).toNat ∧ s.A.toNat * (invert s.A).toNat % pNat = 1 ∧
      ∀ w : Nat, w < pNat → s.A.toNat * w % pNat = 1 → w = (invert s.A).toNat) ∧
    (s.A.toNat = 0 ∨ s.A.toNat = pNat → invert s.A = 0)

/-- R36, R35, R78: every command completes in every state, and what it leaves alone: A, B, CMD, OPL, ILL and the model's own
fields always, T but for MUL, R for MUL, every window byte but those of the destination register and STATUS. -/
def Obligations.CompletionFrame : Prop :=
  ∀ (i : Instr) (s : State), ∃ t, exec i s = .next t ∧
    t.STATUS.busy = false ∧ t.STATUS.done = true ∧ t.STATUS.ill = s.STATUS.ill ∧
    t.A = s.A ∧ t.B = s.B ∧ t.CMD = s.CMD ∧ t.OPL = s.OPL ∧ t.wait = s.wait ∧ t.draws = s.draws ∧
    t.script = s.script ∧ t.received = s.received ∧
    (i ≠ .mul → t.T = s.T) ∧ (i = .mul → t.R = s.R) ∧
    (∀ addr : Byte, addr ≠ statusAddr →
      (i = .mul → addr.toNat < 0x40 ∨ 0x80 ≤ addr.toNat) →
      (i ≠ .mul → addr.toNat < 0x80 ∨ 0xA0 ≤ addr.toNat) →
      windowByte t addr = windowByte s addr)

/-- R78, R26: after completion the STATUS byte reads 0x02 | (CB << 2) | (PV << 3). -/
def Obligations.CompletionStatusByte : Prop :=
  ∀ (i : Instr) (s t : State), s.STATUS.ill = false → exec i s = .next t →
    hostRead t statusAddr =
      0x02 ||| ((BitVec.ofBool t.STATUS.cb).setWidth 8 <<< 2) ||| ((BitVec.ofBool t.STATUS.pv).setWidth 8 <<< 3)

/-- R26: the bits of STATUS, 7:5 reading 0. -/
def Obligations.StatusByteLayout : Prop :=
  ∀ f : Status,
    (statusByte f).getLsbD 0 = f.busy ∧ (statusByte f).getLsbD 1 = f.done ∧ (statusByte f).getLsbD 2 = f.cb ∧
    (statusByte f).getLsbD 3 = f.pv ∧ (statusByte f).getLsbD 4 = f.ill ∧ (statusByte f).getLsbD 5 = false ∧
    (statusByte f).getLsbD 6 = false ∧ (statusByte f).getLsbD 7 = false

/-- R182: the domain of each operation and the PV it writes; "X >= p" is the carry of rawAdd(X, r). -/
def Obligations.PvIsOutOfDomain : Prop :=
  (∀ (i : Instr) (s t : State), exec i s = .next t → (t.STATUS.pv = true ↔ ¬ InDomain i s)) ∧
  (∀ x : U256, (rawAdd x reducerConst).2 = true ↔ pNat ≤ x.toNat)

/-- R33: the result of an operation is a function of A, B and T alone: no earlier operation, no other register and no free value
reaches it. -/
def Obligations.ResultDependsOnOperandsOnly : Prop :=
  ∀ (i : Instr) (s₁ s₂ t₁ t₂ : State), s₁.A = s₂.A → s₁.B = s₂.B → s₁.T = s₂.T →
    exec i s₁ = .next t₁ → exec i s₂ = .next t₂ →
    t₁.T = t₂.T ∧ (i ≠ .mul → t₁.R = t₂.R) ∧ t₁.STATUS.cb = t₂.STATUS.cb ∧ t₁.STATUS.pv = t₂.STATUS.pv

/-- R138, R154: MUL then RED leaves (A * B) mod p in R and A * B in T, for every A and B. -/
def Obligations.MulThenRedIsFieldProduct : Prop :=
  ∀ s : State, ∃ t u, exec .mul s = .next t ∧ exec .red t = .next u ∧
    u.R.toNat = s.A.toNat * s.B.toNat % pNat ∧ u.T.toNat = s.A.toNat * s.B.toNat ∧ u.A = s.A ∧ u.B = s.B

/-! ### The raw functions and the helpers -/

/-- R90: rawAdd in its integer form, which equals the byte-serial form. -/
def Obligations.RawAddIntegerAndByteSerial : Prop :=
  ∀ x y : U256,
    (rawAdd x y).1.toNat = (x.toNat + y.toNat) % 2 ^ 256 ∧
    ((rawAdd x y).2 = true ↔ 2 ^ 256 ≤ x.toNat + y.toNat) ∧
    x.toNat + y.toNat = (rawAdd x y).1.toNat + 2 ^ 256 * (rawAdd x y).2.toNat ∧
    rawAddSerial x y = rawAdd x y

/-- R91: rawSub in its integer form, which equals the byte-serial form. -/
def Obligations.RawSubIntegerAndByteSerial : Prop :=
  ∀ x y : U256,
    ((rawSub x y).1.toNat : Int) = ((x.toNat : Int) - y.toNat) % 2 ^ 256 ∧
    ((x.toNat : Int) - y.toNat) = (rawSub x y).1.toNat - 2 ^ 256 * (rawSub x y).2.toNat ∧
    ((rawSub x y).2 = true ↔ x.toNat < y.toNat) ∧
    rawSubSerial x y = rawSub x y

/-- R94, R95, R96: the zero test over the 32 bytes, the parity test on byte 0 for U256 and for U257, the comparison and its
byte-serial form. -/
def Obligations.HelperPredicates : Prop :=
  (∀ x y : U256,
    (isZero x = true ↔ x.toNat = 0) ∧
    (isZero x = true ↔ ∀ k < 32, byteOf x k = 0x00) ∧
    (isEven x = true ↔ x.toNat % 2 = 0) ∧ isEven x = !x.getLsbD 0 ∧
    isEven x = !(byteOf x 0).getLsbD 0 ∧ isOdd x = !isEven x ∧ isEven (0 : U256) = true ∧
    (geq x y = true ↔ y.toNat ≤ x.toNat) ∧
    geq x y = !(rawSub x y).2 ∧ geqSerial x y = geq x y) ∧
  (∀ z : U257,
    (isEven z = true ↔ z.toNat % 2 = 0) ∧ isEven z = !z.getLsbD 0 ∧
    isEven z = !(byteOf z 0).getLsbD 0 ∧ isOdd z = !isEven z ∧ isEven (0 : U257) = true)

/-- R97, R98: the one-bit shifts, with and without a bit entering at the top, and the byte-serial form of the first. -/
def Obligations.ShiftPrimitives : Prop :=
  ∀ (x : U256) (c : Bool),
    (shr1 x).toNat = x.toNat / 2 ∧ (shr1 x).getLsbD 255 = false ∧
    (∀ i < 255, (shr1 x).getLsbD i = x.getLsbD (i + 1)) ∧
    (isEven x = true → 2 * (shr1 x).toNat = x.toNat) ∧
    shr1Serial x = shr1 x ∧
    (shr1c c x).toNat = (c.toNat * 2 ^ 256 + x.toNat) / 2 ∧ (shr1c c x).getLsbD 255 = c

/-! ### Modular addition and subtraction -/

/-- R110: canon subtracts p once where it must; it is the adder with r and its carry. -/
def Obligations.CanonIsResidue : Prop :=
  ∀ v : U256,
    (canon v).toNat = (if pNat ≤ v.toNat then v.toNat - pNat else v.toNat) ∧
    (canon v).toNat < pNat ∧ (canon v).toNat ≡ v.toNat [MOD pNat] ∧
    ((rawAdd v reducerConst).2 = true ↔ pNat ≤ v.toNat) ∧
    (pNat ≤ v.toNat → (rawAdd v reducerConst).1.toNat = v.toNat - pNat)

/-- R115: in domain modAdd and modSub return the canonical sum and difference. -/
def Obligations.ModAddSubInDomain : Prop :=
  ∀ x y : U256, x.toNat < pNat → y.toNat < pNat →
    (modAdd x y).1.toNat = (x.toNat + y.toNat) % pNat ∧
    ((modSub x y).1.toNat : Int) = ((x.toNat : Int) - y.toNat) % pNat ∧
    (modAdd x y).1.toNat < pNat ∧ (modSub x y).1.toNat < pNat

/-- R116: what modAdd and modSub return for arbitrary operands: the residue where one correction is enough, and a value off by r
where the raw stage would have needed two. -/
def Obligations.ModAddSubOutOfDomain : Prop :=
  ∀ x y : U256,
    (x.toNat + y.toNat < 2 ^ 256 + pNat → (modAdd x y).1.toNat = (x.toNat + y.toNat) % pNat) ∧
    (2 ^ 256 + pNat ≤ x.toNat + y.toNat →
      (modAdd x y).1.toNat = x.toNat + y.toNat - 2 ^ 256 - pNat ∧
      (modAdd x y).1.toNat ≤ reducerConst.toNat - 2 ∧
      (modAdd x y).1.toNat = (x.toNat + y.toNat - reducerConst.toNat) % pNat) ∧
    (y.toNat ≤ x.toNat + pNat → ((modSub x y).1.toNat : Int) = ((x.toNat : Int) - y.toNat) % pNat) ∧
    (x.toNat + pNat < y.toNat →
      (modSub x y).1.toNat = x.toNat + 2 ^ 256 - y.toNat ∧
      1 ≤ (modSub x y).1.toNat ∧ (modSub x y).1.toNat ≤ reducerConst.toNat - 1 ∧
      (modSub x y).1.toNat = (x.toNat + 2 * pNat + reducerConst.toNat - y.toNat) % pNat)

/-- R117: the laws the source lists as testable, for operands in [0, p). -/
def Obligations.FieldAddSubLaws : Prop :=
  (∀ a b c : U256, a.toNat < pNat → b.toNat < pNat → c.toNat < pNat →
    (modSub (modAdd a b).1 b).1 = a ∧
    (modAdd a b).1 = (modAdd b a).1 ∧
    (modAdd (modAdd a b).1 c).1 = (modAdd a (modAdd b c).1).1 ∧
    (modAdd a b).1.toNat < pNat ∧ (modSub a b).1.toNat < pNat) ∧
  (modAdd (modulus - 1) 1).1 = 0 ∧ (modSub 0 1).1 = modulus - 1

/-! ### The reducer and the multiplier -/

/-- R131: the identity the slice table of R130 must satisfy, for every T. -/
def Obligations.SolinasIdentity : Prop :=
  ∀ t : U512,
    let x := terms t
    (t.toNat : Int) ≡ x.T0.toNat + 2 * x.S1.toNat + 2 * x.S2.toNat + x.S3.toNat + x.S4.toNat
      - x.D1.toNat - x.D2.toNat - x.D3.toNat - x.D4.toNat [ZMOD pNat]

/-- R137: S2, D3 and D4 are always canonical; the seed and the other five are not, for T = 2^512 - 1. -/
def Obligations.TermSizes : Prop :=
  (∀ t : U512,
    (terms t).S2.toNat < 2 ^ 224 ∧ (terms t).S2.toNat < pNat ∧ (terms t).D3.toNat < pNat ∧ (terms t).D4.toNat < pNat ∧
    canon (terms t).S2 = (terms t).S2 ∧ canon (terms t).D3 = (terms t).D3 ∧ canon (terms t).D4 = (terms t).D4) ∧
  (let x := terms (BitVec.allOnes 512);
    pNat ≤ x.T0.toNat ∧ pNat ≤ x.S1.toNat ∧ pNat ≤ x.S3.toNat ∧ pNat ≤ x.S4.toNat ∧ pNat ≤ x.D1.toNat ∧
    pNat ≤ x.D2.toNat)

/-- R136: the chain without canon is not the reducer: the two inputs R136 prints, one for each correction. -/
def Obligations.UncorrectedChainIsWrong : Prop :=
  reduceLit (BitVec.allOnes 512) = 0x00000003FFFFFFFEFFFFFFFFFFFFFFFEFFFFFFFCFFFFFFFF0000000000000001#256 ∧
  reduce (BitVec.allOnes 512) = 0x00000004FFFFFFFDFFFFFFFFFFFFFFFEFFFFFFFBFFFFFFFF0000000000000002#256 ∧
  reduceLit 
    0x00000000000000000000000000000000FFFFFFFF00000000FFFFFFFF000000000000000000000000000000000000000000000000000000000000000000000000#512 =
    0xFFFFFFFF00000001000000000000000200000000FFFFFFFFFFFFFFFEFFFFFFFF#256 ∧
  reduce 
    0x00000000000000000000000000000000FFFFFFFF00000000FFFFFFFF000000000000000000000000000000000000000000000000000000000000000000000000#512 =
    0xFFFFFFFE00000002000000000000000200000001FFFFFFFFFFFFFFFEFFFFFFFE#256

/-- R150, R151: the schoolbook byte-serial multiplier, its byte pairs in the order R151 writes (log 19), equals the exact
product. -/
def Obligations.MultiplyIsByteSerial : Prop :=
  ∀ x y : U256, multiplySerial x y = multiply x y ∧ (multiply x y).toNat = x.toNat * y.toNat

/-! ### The inverter -/

/-- R161: halveMod returns W / 2 modulo p, canonical, and the carry of W + p is kept. -/
def Obligations.HalveModIsHalf : Prop :=
  ∀ w : U256, w.toNat < pNat →
    (halveMod w).toNat < pNat ∧ 2 * (halveMod w).toNat ≡ w.toNat [MOD pNat] ∧
    (w.toNat % 2 = 1 → (halveMod w).toNat = (w.toNat + pNat) / 2) ∧
    (w.toNat % 2 = 0 → (halveMod w).toNat = w.toNat / 2)

/-- R163, R167: the inner loops end: a non-zero value is halved at most 255 times, to an odd value, and more fuel changes
nothing. -/
def Obligations.HalvingEndsOdd : Prop :=
  ∀ u x : U256, u.toNat ≠ 0 →
    isOdd (halveWhileEven 256 u x).1 = true ∧ halvings 256 u ≤ 255 ∧
    u.toNat = 2 ^ halvings 256 u * (halveWhileEven 256 u x).1.toNat ∧
    ∀ fuel, 256 ≤ fuel → halveWhileEven fuel u x = halveWhileEven 256 u x

/-- R166: the invariants hold at the start and are kept by the two inner loops, which leave U and V odd, and by step 3. -/
def Obligations.InvertInvariantKept : Prop :=
  (∀ x : U256, InvertInv x (invertStart x)) ∧
  (∀ (x : U256) (q : Pairs), InvertInv x q → isZero q.U = false →
    InvertInv x (halveBoth q) ∧ isOdd (halveBoth q).U = true ∧ isOdd (halveBoth q).V = true ∧
    InvertInv x (invertRound q))

/-- R167: the loop ends for every X, after at most 511 outer iterations and at most 510 halvings, whatever fuel is allowed
beyond 511. -/
def Obligations.InvertTerminates : Prop :=
  ∀ x : U256,
    (invertLoop 511 (invertStart x)).U = 0 ∧
    ∀ fuel, 511 ≤ fuel →
      invertLoop fuel (invertStart x) = invertLoop 511 (invertStart x) ∧
      (invertCounts fuel (invertStart x)).1 ≤ 511 ∧ (invertCounts fuel (invertStart x)).2 ≤ 510

/-- R164, R166: at loop exit V = gcd(X, p); where X is no multiple of p, V = 1 and X1 = 0, so X2 is the only inverse left. -/
def Obligations.InvertExitState : Prop :=
  ∀ x : U256,
    (invertLoop 511 (invertStart x)).V.toNat = Nat.gcd x.toNat pNat ∧
    (x.toNat % pNat ≠ 0 →
      (invertLoop 511 (invertStart x)).V = 1 ∧ (invertLoop 511 (invertStart x)).X1 = 0)

/-! ### The whole machine -/

/-- R26, R31, R77, R182, R211: every step from a legal state leads to a legal state. -/
def Obligations.StepKeepsLegal : Prop :=
  ∀ s t : State, Legal s → step s = .next t → Legal t

/-- R34, R200: the state after any Reset is legal, State.reset among them. -/
def Obligations.ResetIsLegal : Prop :=
  (∀ (d : ResetData) (n : Nat) (ops : List HostOp) (bs : List Byte), Legal (State.resetWith d n ops bs)) ∧
  Legal State.reset

/-- R180: no legal state faults or refuses: every step answers a next state. -/
def Obligations.LegalStepsNeverStop : Prop :=
  ∀ s : State, Legal s → SafeStep s

/-- R26, R184 (c): the STATUS bytes a host can read while the block is idle. -/
def Obligations.IdleStatusValues : Prop :=
  ∀ s : State, Legal s → s.STATUS.busy = false →
    hostRead s statusAddr ∈ [0x00, 0x02, 0x06, 0x0A, 0x0E, (0x10 : Byte)]

/-- R78, R214: BUSY never stays 1 for ever: from a legal state it falls within the latency left and one step more. -/
def Obligations.BusyFallsInBoundedTime : Prop :=
  ∀ s : State, Legal s → s.STATUS.busy = true →
    ∃ n t, n ≤ s.wait + 1 ∧ run n s = .next t ∧ t.STATUS.busy = false

/-- R62, R206: unless the host resets the block, an accepted command runs on the A, B and T that were there when it was
accepted, whatever the host does meanwhile. The count of steps and the Reset-free script it is said over are the model's
countdown of LATENCY (log 4) and stored script (log 5). -/
def Obligations.OperandsHeldUntilComplete : Prop :=
  ∀ (s : State) (i : Instr), s.STATUS.busy = false → (∀ op ∈ s.script, isReset op = false) →
    let t := hostWrite s cmdAddr (encode i)
    ∃ u, run t.wait t = .next u ∧ run (t.wait + 1) t = exec i u ∧
      u.STATUS.busy = true ∧ u.wait = 0 ∧ u.OPL = encode i ∧ u.CMD = encode i ∧
      u.A = s.A ∧ u.B = s.B ∧ u.T = s.T ∧ u.R = s.R

/-! ### The host script's pseudo-instructions -/

/-- R80, R58: LD.A, LD.B and LD.T load the value they name and touch nothing else. -/
def Obligations.LoadPseudoInstructions : Prop :=
  ∀ (s : State) (x : U256) (y : U512) (rest : List HostOp), s.STATUS.busy = false →
    (s.script = expand (.ldA x) ++ rest → run 32 s = .next { s with A := x, script := rest }) ∧
    (s.script = expand (.ldB x) ++ rest → run 32 s = .next { s with B := x, script := rest }) ∧
    (s.script = expand (.ldT y) ++ rest → run 64 s = .next { s with T := y, script := rest })

/-- R80: ST.R and ST.T yield the register's value and change nothing of the block. -/
def Obligations.StorePseudoInstructions : Prop :=
  ∀ (s : State) (rest : List HostOp), s.STATUS.busy = false →
    (s.script = expand .stR ++ rest →
      ∃ t, run 32 s = .next t ∧ SameBlock s t ∧ t.script = rest ∧ lastRead t 32 = s.R.toNat) ∧
    (s.script = expand .stT ++ rest →
      ∃ t, run 64 s = .next t ∧ SameBlock s t ∧ t.script = rest ∧ lastRead t 64 = s.T.toNat)

/-- R80, R36: CP.RA and CP.RB copy R into A or B, byte by byte through the host. -/
def Obligations.CopyPseudoInstructions : Prop :=
  ∀ (s : State) (rest : List HostOp), s.STATUS.busy = false →
    (s.script = expand .cpRA ++ rest →
      ∃ t, run 64 s = .next t ∧ SameBlock { s with A := s.R } t ∧ t.script = rest) ∧
    (s.script = expand .cpRB ++ rest →
      ∃ t, run 64 s = .next t ∧ SameBlock { s with B := s.R } t ∧ t.script = rest)

/-- R63, R78, R80: a mnemonic alone on a line (RUN then WAIT) ends, whatever the latency, with the block idle, DONE = 1, and the
registers and flags the command's meaning gives on the operands that were there when it was issued. The countdown of LATENCY
(log 4) and WAIT as one operation that polls (log 12) are the model's. -/
def Obligations.CommandLineEndsWithItsResult : Prop :=
  ∀ (s : State) (i : Instr) (rest : List HostOp), s.STATUS.busy = false → s.script = expand (.cmd i) ++ rest →
    ∃ n t u, run n s = .next t ∧ exec i s = .next u ∧ t.script = rest ∧
      t.STATUS = { u.STATUS with ill := false } ∧ t.CMD = encode i ∧
      t.A = u.A ∧ t.B = u.B ∧ t.T = u.T ∧ t.R = u.R
end

