-- ==== Sys2Proof/Laws/Arith.lean ====
section
/-! SUPPORT. The arithmetic of the pure functions as natural numbers. -/

namespace Sys2Proof.Machine

theorem modulus_toNat : modulus.toNat = pNat := by decide +kernel

theorem reducerConst_toNat : reducerConst.toNat = 2 ^ 256 - pNat := by decide +kernel

theorem pNat_value :
    pNat = 115792089210356248762697446949407573530086143415290314195533631308867097853951 := by decide +kernel

/-- What the corrections need of p: it is odd and lies between 2^255 and 2^256 (spec/41_mod_addsub.md R110: "V < 2^256 < 2p"). -/
theorem pNat_bounds : pNat < 2 ^ 256 ∧ 2 ^ 256 < 2 * pNat ∧ pNat % 2 = 1 := by decide

@[simp] theorem rawAdd_fst_toNat (x y : U256) : (rawAdd x y).1.toNat = (x.toNat + y.toNat) % 2 ^ 256 :=
  BitVec.toNat_add x y

@[simp] theorem rawAdd_snd (x y : U256) : (rawAdd x y).2 = decide (2 ^ 256 ≤ x.toNat + y.toNat) := rfl

@[simp] theorem rawSub_fst_toNat (x y : U256) :
    (rawSub x y).1.toNat = (2 ^ 256 - y.toNat + x.toNat) % 2 ^ 256 :=
  BitVec.toNat_sub x y

@[simp] theorem rawSub_snd (x y : U256) : (rawSub x y).2 = decide (x.toNat < y.toNat) := rfl

theorem isZero_iff (x : U256) : isZero x = true ↔ x.toNat = 0 := by
  simp [isZero, BitVec.toNat_eq]

theorem isEven_eq {w : Nat} (x : BitVec w) : isEven x = decide (x.toNat % 2 = 0) := by
  unfold isEven
  rw [BitVec.getLsbD, Nat.testBit_zero]
  rcases Nat.mod_two_eq_zero_or_one x.toNat with h | h <;> simp [h]

theorem isOdd_eq {w : Nat} (x : BitVec w) : isOdd x = decide (x.toNat % 2 = 1) := by
  rw [isOdd, isEven_eq]
  rcases Nat.mod_two_eq_zero_or_one x.toNat with h | h <;> simp [h]

theorem geq_eq (x y : U256) : geq x y = decide (y.toNat ≤ x.toNat) := by
  rw [geq, rawSub_snd, ← decide_not]
  exact decide_eq_decide.mpr Nat.not_lt

theorem shr1_toNat (x : U256) : (shr1 x).toNat = x.toNat / 2 := by
  simp [shr1, Nat.shiftRight_eq_div_pow]

theorem shr1c_toNat (c : Bool) (x : U256) : (shr1c c x).toNat = (c.toNat * 2 ^ 256 + x.toNat) / 2 := by
  have hx := x.isLt
  have hc := Bool.toNat_le c
  have happ : (BitVec.ofBool c ++ x).toNat = c.toNat * 2 ^ 256 + x.toNat := by
    rw [BitVec.toNat_append, ← Nat.shiftLeft_add_eq_or_of_lt hx, Nat.shiftLeft_eq, BitVec.toNat_ofBool]
  rw [shr1c, BitVec.toNat_setWidth, BitVec.toNat_ushiftRight, happ, Nat.shiftRight_eq_div_pow]
  omega

/-- The uncorrected adder: the sum, or the sum with r in place of the dropped 2^256. -/
theorem addLit_toNat (x y : U256) :
    (addLit x y).toNat =
      if 2 ^ 256 ≤ x.toNat + y.toNat then ((x.toNat + y.toNat) % 2 ^ 256 + (2 ^ 256 - pNat)) % 2 ^ 256
      else x.toNat + y.toNat := by
  simp only [addLit, rawAdd, decide_eq_true_eq]
  split
  · rw [BitVec.toNat_add, BitVec.toNat_add, reducerConst_toNat]
  · next h => rw [BitVec.toNat_add, Nat.mod_eq_of_lt (Nat.not_le.mp h)]

/-- The uncorrected subtractor: the difference, or the wrapped difference with p added. -/
theorem subLit_toNat (x y : U256) :
    (subLit x y).toNat =
      if x.toNat < y.toNat then ((2 ^ 256 - y.toNat + x.toNat) % 2 ^ 256 + pNat) % 2 ^ 256
      else x.toNat - y.toNat := by
  simp only [subLit, rawAdd, rawSub, decide_eq_true_eq]
  split
  · rw [BitVec.toNat_add, BitVec.toNat_sub, modulus_toNat]
  · next h => exact BitVec.toNat_sub_of_le (BitVec.le_def.mpr (Nat.not_lt.mp h))

/-- canon keeps V, or V + r with its carry dropped where it carries. -/
theorem canon_cases (v : U256) :
    (v.toNat + (2 ^ 256 - pNat) < 2 ^ 256 ∧ canon v = v) ∨
      (2 ^ 256 ≤ v.toNat + (2 ^ 256 - pNat) ∧ canon v = v + reducerConst) := by
  unfold canon rawAdd
  rw [reducerConst_toNat]
  rcases Nat.lt_or_ge (v.toNat + (2 ^ 256 - pNat)) (2 ^ 256) with h | h
  · exact .inl ⟨h, by simp only [decide_eq_true_eq, if_neg (Nat.not_le.mpr h)]⟩
  · exact .inr ⟨h, by simp only [decide_eq_true_eq, if_pos h]⟩

/-- The product of two values fits twice their width (spec/43_multiplier.md R153). -/
theorem mul_setWidth_toNat {w : Nat} (x y : BitVec w) :
    (x.setWidth (w + w) * y.setWidth (w + w)).toNat = x.toNat * y.toNat := by
  have hw : 2 ^ w ≤ 2 ^ (w + w) := Nat.pow_le_pow_right (by decide) (Nat.le_add_right w w)
  have h : x.toNat * y.toNat < 2 ^ (w + w) := Nat.pow_add 2 w w ▸ Nat.mul_lt_mul'' x.isLt y.isLt
  rw [BitVec.toNat_mul, BitVec.toNat_setWidth, BitVec.toNat_setWidth, Nat.mod_eq_of_lt (lt_of_lt_of_le x.isLt hw),
    Nat.mod_eq_of_lt (lt_of_lt_of_le y.isLt hw), Nat.mod_eq_of_lt h]

theorem multiply_toNat (x y : U256) : (multiply x y).toNat = x.toNat * y.toNat :=
  mul_setWidth_toNat x y

end Sys2Proof.Machine
end

