-- ==== Sys2Proof/Laws/Bytes.lean ====
section
/-! SUPPORT. Reading and writing one byte of a wide value: a write is read back, and leaves every other byte alone. -/

namespace Sys2Proof.Machine

theorem byteOf_toNat {w : Nat} (x : BitVec w) (k : Nat) : (byteOf x k).toNat = x.toNat / 2 ^ (8 * k) % 256 := by
  simp [byteOf, BitVec.extractLsb'_toNat, Nat.shiftRight_eq_div_pow]

theorem getLsbD_byteOf {w : Nat} (x : BitVec w) (k i : Nat) :
    (byteOf x k).getLsbD i = (decide (i < 8) && x.getLsbD (8 * k + i)) := by
  simp [byteOf, BitVec.getLsbD_extractLsb']

theorem getLsbD_setByte {w : Nat} (x : BitVec w) (k : Nat) (b : Byte) (i : Nat) (hi : i < w) :
    (setByte x k b).getLsbD i =
      if 8 * k ≤ i ∧ i < 8 * k + 8 then b.getLsbD (i - 8 * k) else x.getLsbD i := by
  have h255 : ∀ j, (0xFF#8).getLsbD j = decide (j < 8) := by
    intro j
    rcases Nat.lt_or_ge j 8 with h | h
    · interval_cases j <;> rfl
    · rw [BitVec.getLsbD_of_ge _ _ h]; simp; omega
  simp only [setByte, BitVec.getLsbD_or, BitVec.getLsbD_and, BitVec.getLsbD_not, BitVec.getLsbD_shiftLeft,
    BitVec.getLsbD_setWidth, h255]
  by_cases h1 : 8 * k ≤ i
  · by_cases h2 : i < 8 * k + 8
    · have e : i - 8 * k < w := by omega
      have e' : i - 8 * k < 8 := by omega
      simp [h1, h2, hi, e, e', Nat.not_lt.mpr h1]
    · have e : ¬ i - 8 * k < 8 := by omega
      have z : b.getLsbD (i - 8 * k) = false := BitVec.getLsbD_of_ge _ _ (by omega)
      simp [h1, h2, hi, e, z]
  · have e : i < 8 * k := by omega
    simp [h1, hi, e]

theorem byteOf_setByte_same {w : Nat} (x : BitVec w) (k : Nat) (b : Byte) (hk : 8 * k + 8 ≤ w) :
    byteOf (setByte x k b) k = b := by
  apply BitVec.eq_of_getLsbD_eq
  intro i hi
  rw [getLsbD_byteOf, getLsbD_setByte _ _ _ _ (by omega)]
  simp [hi]

theorem byteOf_setByte_other {w : Nat} (x : BitVec w) (j k : Nat) (b : Byte) (hj : 8 * j + 8 ≤ w) (h : j ≠ k) :
    byteOf (setByte x k b) j = byteOf x j := by
  apply BitVec.eq_of_getLsbD_eq
  intro i hi
  rw [getLsbD_byteOf, getLsbD_byteOf, getLsbD_setByte _ _ _ _ (by omega)]
  rw [if_neg (by omega)]

/-- Two wide values with the same bytes are the same value. -/
theorem eq_of_byteOf_eq {n : Nat} (x y : BitVec (8 * n)) (h : ∀ k < n, byteOf x k = byteOf y k) : x = y := by
  apply BitVec.eq_of_getLsbD_eq
  intro i hi
  have hb : (byteOf x (i / 8)).getLsbD (i % 8) = (byteOf y (i / 8)).getLsbD (i % 8) := by
    rw [h (i / 8) (by omega)]
  have e : 8 * (i / 8) + i % 8 = i := Nat.div_add_mod i 8
  have l : i % 8 < 8 := Nat.mod_lt _ (by decide)
  rw [getLsbD_byteOf, getLsbD_byteOf, e] at hb
  simpa only [l, decide_true, Bool.true_and] using hb

end Sys2Proof.Machine
end

