-- ==== Sys2Proof/Laws/State.lean ====
section
/-! SUPPORT. What each update of State leaves in each field, and the fields of STATUS: one lemma per field per update. -/

namespace Sys2Proof.Machine

@[simp] theorem completeR_A (s : State) (v : U256) (cb pv : Bool) : (completeR s v cb pv).A = s.A := rfl
@[simp] theorem completeR_B (s : State) (v : U256) (cb pv : Bool) : (completeR s v cb pv).B = s.B := rfl
@[simp] theorem completeR_T (s : State) (v : U256) (cb pv : Bool) : (completeR s v cb pv).T = s.T := rfl
@[simp] theorem completeR_R (s : State) (v : U256) (cb pv : Bool) : (completeR s v cb pv).R = v := rfl
@[simp] theorem completeR_CMD (s : State) (v : U256) (cb pv : Bool) : (completeR s v cb pv).CMD = s.CMD := rfl
@[simp] theorem completeR_STATUS (s : State) (v : U256) (cb pv : Bool) :
    (completeR s v cb pv).STATUS = completeStatus s.STATUS cb pv := rfl
@[simp] theorem completeR_OPL (s : State) (v : U256) (cb pv : Bool) : (completeR s v cb pv).OPL = s.OPL := rfl
@[simp] theorem completeR_wait (s : State) (v : U256) (cb pv : Bool) : (completeR s v cb pv).wait = s.wait := rfl
@[simp] theorem completeR_draws (s : State) (v : U256) (cb pv : Bool) : (completeR s v cb pv).draws = s.draws := rfl
@[simp] theorem completeR_script (s : State) (v : U256) (cb pv : Bool) : (completeR s v cb pv).script = s.script := rfl
@[simp] theorem completeR_received (s : State) (v : U256) (cb pv : Bool) : (completeR s v cb pv).received = s.received := rfl

@[simp] theorem completeT_A (s : State) (v : U512) (cb pv : Bool) : (completeT s v cb pv).A = s.A := rfl
@[simp] theorem completeT_B (s : State) (v : U512) (cb pv : Bool) : (completeT s v cb pv).B = s.B := rfl
@[simp] theorem completeT_T (s : State) (v : U512) (cb pv : Bool) : (completeT s v cb pv).T = v := rfl
@[simp] theorem completeT_R (s : State) (v : U512) (cb pv : Bool) : (completeT s v cb pv).R = s.R := rfl
@[simp] theorem completeT_CMD (s : State) (v : U512) (cb pv : Bool) : (completeT s v cb pv).CMD = s.CMD := rfl
@[simp] theorem completeT_STATUS (s : State) (v : U512) (cb pv : Bool) :
    (completeT s v cb pv).STATUS = completeStatus s.STATUS cb pv := rfl
@[simp] theorem completeT_OPL (s : State) (v : U512) (cb pv : Bool) : (completeT s v cb pv).OPL = s.OPL := rfl
@[simp] theorem completeT_wait (s : State) (v : U512) (cb pv : Bool) : (completeT s v cb pv).wait = s.wait := rfl
@[simp] theorem completeT_draws (s : State) (v : U512) (cb pv : Bool) : (completeT s v cb pv).draws = s.draws := rfl
@[simp] theorem completeT_script (s : State) (v : U512) (cb pv : Bool) : (completeT s v cb pv).script = s.script := rfl
@[simp] theorem completeT_received (s : State) (v : U512) (cb pv : Bool) : (completeT s v cb pv).received = s.received := rfl

@[simp] theorem acceptValid_A (s : State) (b : Byte) : (acceptValid s b).A = s.A := rfl
@[simp] theorem acceptValid_B (s : State) (b : Byte) : (acceptValid s b).B = s.B := rfl
@[simp] theorem acceptValid_T (s : State) (b : Byte) : (acceptValid s b).T = s.T := rfl
@[simp] theorem acceptValid_R (s : State) (b : Byte) : (acceptValid s b).R = s.R := rfl
@[simp] theorem acceptValid_CMD (s : State) (b : Byte) : (acceptValid s b).CMD = b := rfl
@[simp] theorem acceptValid_STATUS (s : State) (b : Byte) :
    (acceptValid s b).STATUS = { s.STATUS with busy := true, done := false, ill := false } := rfl
@[simp] theorem acceptValid_OPL (s : State) (b : Byte) : (acceptValid s b).OPL = b := rfl
@[simp] theorem acceptValid_wait (s : State) (b : Byte) :
    (acceptValid s b).wait = Config.latency s.draws b s.A s.B s.T := rfl
@[simp] theorem acceptValid_draws (s : State) (b : Byte) : (acceptValid s b).draws = s.draws + 1 := rfl
@[simp] theorem acceptValid_script (s : State) (b : Byte) : (acceptValid s b).script = s.script := rfl
@[simp] theorem acceptValid_received (s : State) (b : Byte) : (acceptValid s b).received = s.received := rfl

@[simp] theorem acceptInvalid_A (s : State) (b : Byte) : (acceptInvalid s b).A = s.A := rfl
@[simp] theorem acceptInvalid_B (s : State) (b : Byte) : (acceptInvalid s b).B = s.B := rfl
@[simp] theorem acceptInvalid_T (s : State) (b : Byte) : (acceptInvalid s b).T = s.T := rfl
@[simp] theorem acceptInvalid_R (s : State) (b : Byte) : (acceptInvalid s b).R = s.R := rfl
@[simp] theorem acceptInvalid_CMD (s : State) (b : Byte) : (acceptInvalid s b).CMD = b := rfl
@[simp] theorem acceptInvalid_STATUS (s : State) (b : Byte) :
    (acceptInvalid s b).STATUS = { busy := s.STATUS.busy, done := false, cb := false, pv := false, ill := true } := rfl
@[simp] theorem acceptInvalid_OPL (s : State) (b : Byte) : (acceptInvalid s b).OPL = s.OPL := rfl
@[simp] theorem acceptInvalid_wait (s : State) (b : Byte) : (acceptInvalid s b).wait = s.wait := rfl
@[simp] theorem acceptInvalid_draws (s : State) (b : Byte) : (acceptInvalid s b).draws = s.draws := rfl
@[simp] theorem acceptInvalid_script (s : State) (b : Byte) : (acceptInvalid s b).script = s.script := rfl
@[simp] theorem acceptInvalid_received (s : State) (b : Byte) : (acceptInvalid s b).received = s.received := rfl

@[simp] theorem inFlight_A (s : State) (b : Byte) : (inFlight s b).A = s.A := rfl
@[simp] theorem inFlight_B (s : State) (b : Byte) : (inFlight s b).B = s.B := rfl
@[simp] theorem inFlight_T (s : State) (b : Byte) : (inFlight s b).T = s.T := rfl
@[simp] theorem inFlight_R (s : State) (b : Byte) : (inFlight s b).R = s.R := rfl
@[simp] theorem inFlight_CMD (s : State) (b : Byte) : (inFlight s b).CMD = b := rfl
@[simp] theorem inFlight_STATUS (s : State) (b : Byte) :
    (inFlight s b).STATUS = { s.STATUS with busy := true, done := false, ill := false } := rfl
@[simp] theorem inFlight_OPL (s : State) (b : Byte) : (inFlight s b).OPL = b := rfl
@[simp] theorem inFlight_wait (s : State) (b : Byte) : (inFlight s b).wait = 0 := rfl
@[simp] theorem inFlight_draws (s : State) (b : Byte) : (inFlight s b).draws = s.draws := rfl
@[simp] theorem inFlight_script (s : State) (b : Byte) : (inFlight s b).script = s.script := rfl
@[simp] theorem inFlight_received (s : State) (b : Byte) : (inFlight s b).received = s.received := rfl

@[simp] theorem hear_A (s : State) (b : Byte) : (hear s b).A = s.A := rfl
@[simp] theorem hear_B (s : State) (b : Byte) : (hear s b).B = s.B := rfl
@[simp] theorem hear_T (s : State) (b : Byte) : (hear s b).T = s.T := rfl
@[simp] theorem hear_R (s : State) (b : Byte) : (hear s b).R = s.R := rfl
@[simp] theorem hear_CMD (s : State) (b : Byte) : (hear s b).CMD = s.CMD := rfl
@[simp] theorem hear_STATUS (s : State) (b : Byte) : (hear s b).STATUS = s.STATUS := rfl
@[simp] theorem hear_OPL (s : State) (b : Byte) : (hear s b).OPL = s.OPL := rfl
@[simp] theorem hear_wait (s : State) (b : Byte) : (hear s b).wait = s.wait := rfl
@[simp] theorem hear_draws (s : State) (b : Byte) : (hear s b).draws = s.draws + 1 := rfl
@[simp] theorem hear_script (s : State) (b : Byte) : (hear s b).script = s.script := rfl
@[simp] theorem hear_received (s : State) (b : Byte) : (hear s b).received = b :: s.received := rfl

@[simp] theorem hostReset_A (s : State) : (hostReset s).A = (Config.resetData s.draws).A := rfl
@[simp] theorem hostReset_B (s : State) : (hostReset s).B = (Config.resetData s.draws).B := rfl
@[simp] theorem hostReset_T (s : State) : (hostReset s).T = (Config.resetData s.draws).T := rfl
@[simp] theorem hostReset_R (s : State) : (hostReset s).R = (Config.resetData s.draws).R := rfl
@[simp] theorem hostReset_CMD (s : State) : (hostReset s).CMD = 0x00 := rfl
@[simp] theorem hostReset_STATUS (s : State) : (hostReset s).STATUS = Status.zero := rfl
@[simp] theorem hostReset_OPL (s : State) : (hostReset s).OPL = (Config.resetData s.draws).OPL := rfl
@[simp] theorem hostReset_wait (s : State) : (hostReset s).wait = 0 := rfl
@[simp] theorem hostReset_draws (s : State) : (hostReset s).draws = s.draws + 1 := rfl
@[simp] theorem hostReset_script (s : State) : (hostReset s).script = s.script := rfl
@[simp] theorem hostReset_received (s : State) : (hostReset s).received = s.received := rfl

@[simp] theorem completeStatus_busy (f : Status) (cb pv : Bool) : (completeStatus f cb pv).busy = false := rfl
@[simp] theorem completeStatus_done (f : Status) (cb pv : Bool) : (completeStatus f cb pv).done = true := rfl
@[simp] theorem completeStatus_cb (f : Status) (cb pv : Bool) : (completeStatus f cb pv).cb = cb := rfl
@[simp] theorem completeStatus_pv (f : Status) (cb pv : Bool) : (completeStatus f cb pv).pv = pv := rfl
@[simp] theorem completeStatus_ill (f : Status) (cb pv : Bool) : (completeStatus f cb pv).ill = f.ill := rfl
@[simp] theorem Status.zero_busy : Status.zero.busy = false := rfl
@[simp] theorem Status.zero_done : Status.zero.done = false := rfl
@[simp] theorem Status.zero_cb : Status.zero.cb = false := rfl
@[simp] theorem Status.zero_pv : Status.zero.pv = false := rfl
@[simp] theorem Status.zero_ill : Status.zero.ill = false := rfl
@[simp] theorem State.resetWith_A (d : ResetData) (n : Nat) (ops : List HostOp) (bs : List Byte) :
    (State.resetWith d n ops bs).A = d.A := rfl
@[simp] theorem State.resetWith_B (d : ResetData) (n : Nat) (ops : List HostOp) (bs : List Byte) :
    (State.resetWith d n ops bs).B = d.B := rfl
@[simp] theorem State.resetWith_T (d : ResetData) (n : Nat) (ops : List HostOp) (bs : List Byte) :
    (State.resetWith d n ops bs).T = d.T := rfl
@[simp] theorem State.resetWith_R (d : ResetData) (n : Nat) (ops : List HostOp) (bs : List Byte) :
    (State.resetWith d n ops bs).R = d.R := rfl
@[simp] theorem State.resetWith_CMD (d : ResetData) (n : Nat) (ops : List HostOp) (bs : List Byte) :
    (State.resetWith d n ops bs).CMD = 0x00 := rfl
@[simp] theorem State.resetWith_STATUS (d : ResetData) (n : Nat) (ops : List HostOp) (bs : List Byte) :
    (State.resetWith d n ops bs).STATUS = Status.zero := rfl
@[simp] theorem State.resetWith_OPL (d : ResetData) (n : Nat) (ops : List HostOp) (bs : List Byte) :
    (State.resetWith d n ops bs).OPL = d.OPL := rfl
@[simp] theorem State.resetWith_wait (d : ResetData) (n : Nat) (ops : List HostOp) (bs : List Byte) :
    (State.resetWith d n ops bs).wait = 0 := rfl
@[simp] theorem State.resetWith_draws (d : ResetData) (n : Nat) (ops : List HostOp) (bs : List Byte) :
    (State.resetWith d n ops bs).draws = n := rfl
@[simp] theorem State.resetWith_script (d : ResetData) (n : Nat) (ops : List HostOp) (bs : List Byte) :
    (State.resetWith d n ops bs).script = ops := rfl
@[simp] theorem State.resetWith_received (d : ResetData) (n : Nat) (ops : List HostOp) (bs : List Byte) :
    (State.resetWith d n ops bs).received = bs := rfl

end Sys2Proof.Machine
end

