-- ==== Sys2Proof/Laws/Ops.lean ====
section
/-! SUPPORT. What each shared operation can do, said once: the window map, host accesses, the host's turn, `exec`, one step. -/

namespace Sys2Proof.Machine

/-- What each region of the window map says of the address (spec/20_memory.md R51). -/
theorem region_spec (addr : Byte) :
    match region addr with
    | .a k => addr.toNat = k ∧ k < 32
    | .b k => addr.toNat = 0x20 + k ∧ k < 32
    | .t k => addr.toNat = 0x40 + k ∧ k < 64
    | .r k => addr.toNat = 0x80 + k ∧ k < 32
    | .p k => addr.toNat = 0xA0 + k ∧ k < 32
    | .rc k => addr.toNat = 0xC0 + k ∧ k < 32
    | .cmd => addr.toNat = 0xE0
    | .status => addr.toNat = 0xE1
    | .reserved => 0xE2 ≤ addr.toNat := by
  simp only [region]
  split_ifs <;> simp <;> omega

theorem decode_encode_ok (i : Instr) : decode (encode i) = .ok i := by
  cases i <;> rfl

/-- A CMD write while idle is one of the two acceptances (R76, R77). -/
theorem issue_cases (s : State) (b : Byte) :
    ((∃ i, decode b = .ok i) ∧ issue s b = acceptValid s b) ∨
      ((∃ e, decode b = .error e) ∧ issue s b = acceptInvalid s b) := by
  unfold issue
  split
  · next i h => exact .inl ⟨⟨i, h⟩, rfl⟩
  · next e h => exact .inr ⟨⟨e, h⟩, rfl⟩

/-- A host write does nothing, writes one byte of A, B or T, or issues a command (R57, R61). -/
theorem hostWrite_cases (s : State) (addr b : Byte) :
    hostWrite s addr b = s ∨
      (s.STATUS.busy = false ∧
        ((∃ k, region addr = .a k ∧ hostWrite s addr b = { s with A := setByte s.A k b }) ∨
          (∃ k, region addr = .b k ∧ hostWrite s addr b = { s with B := setByte s.B k b }) ∨
          (∃ k, region addr = .t k ∧ hostWrite s addr b = { s with T := setByte s.T k b }) ∨
          (region addr = .cmd ∧ hostWrite s addr b = issue s b))) := by
  unfold hostWrite
  cases hb : s.STATUS.busy
  · cases hr : region addr <;> simp
  · simp

/-- What a host access reads while idle. -/
theorem hostRead_idle (s : State) (addr : Byte) (h : s.STATUS.busy = false) :
    hostRead s addr = windowByte s addr := by
  simp [hostRead, h]

/-- What a host access reads while an operation is in flight. -/
theorem hostRead_busy (s : State) (addr : Byte) (h : s.STATUS.busy = true) :
    hostRead s addr = windowByteBusy s addr (Config.freeByte s.draws) := by
  simp [hostRead, h]

/-- The host's turn: nothing to do, a byte heard with or without a change of the script, a write, or a reset. -/
theorem hostTurn_cases (s : State) :
    (s.script = [] ∧ hostTurn s = s) ∨
      (∃ op rest, s.script = op :: rest ∧
        ((∃ b ops, hostTurn s = { hear { s with script := rest } b with script := ops }) ∨
          (∃ addr b, op = .wr addr b ∧ hostTurn s = hostWrite { s with script := rest } addr b) ∨
          hostTurn s = hostReset { s with script := rest } ∨
          (∃ b, hostTurn s = hear (hostReset { s with script := rest }) b))) := by
  cases hs : s.script with
  | nil => exact .inl ⟨rfl, by simp [hostTurn, hs]⟩
  | cons op rest =>
    refine .inr ⟨op, rest, rfl, ?_⟩
    cases op with
    | rd addr => exact .inl ⟨_, rest, by simp only [hostTurn, hs, hostDo]; rfl⟩
    | wr addr b => exact .inr (.inl ⟨addr, b, rfl, by simp only [hostTurn, hs, hostDo]⟩)
    | rdTo src dst => exact .inl ⟨_, _, by simp only [hostTurn, hs, hostDo]; rfl⟩
    | poll =>
      left
      simp only [hostTurn, hs, hostDo]
      split
      · exact ⟨_, _, rfl⟩
      · exact ⟨_, rest, rfl⟩
    | reset => exact .inr (.inr (.inl (by simp only [hostTurn, hs, hostDo])))
    | resetRd addr => exact .inr (.inr (.inr ⟨_, by simp only [hostTurn, hs, hostDo]; rfl⟩))
    | resetWr addr b => exact .inr (.inr (.inl (by simp only [hostTurn, hs, hostDo])))

/-- Every command's `Complete` writes its destination, CB and PV through one of the two completions (R35, R78). -/
theorem exec_cases (i : Instr) (s : State) :
    (i ≠ .mul ∧ ∃ v cb pv, exec i s = .next (completeR s v cb pv)) ∨
      (i = .mul ∧ exec i s = .next (completeT s (multiply s.A s.B) false false)) := by
  cases i
  case mul => exact .inr ⟨rfl, rfl⟩
  all_goals exact .inl ⟨by decide, _, _, _, rfl⟩

/-- Everything one step can do (R6, R78, R184). -/
theorem step_cases {s t : State} (h : step s = .next t) :
    (s.STATUS.busy = false ∧ t = hostTurn s) ∨
      (∃ n, s.STATUS.busy = true ∧ s.wait = n + 1 ∧ t = hostTurn { s with wait := n }) ∨
      (∃ i, s.STATUS.busy = true ∧ s.wait = 0 ∧ decode s.OPL = .ok i ∧ exec i s = .next t) := by
  unfold step schedule at h
  split at h
  · next hb => exact .inl ⟨hb, (Host.Outcome.next.inj h).symm⟩
  · next n hb hw => exact .inr (.inl ⟨n, hb, hw, (Host.Outcome.next.inj h).symm⟩)
  · next hb hw =>
    unfold completeStep fetch at h
    split at h
    · next i hd => exact .inr (.inr ⟨i, hb, hw, hd, h⟩)
    · cases h

/-- Where a step stops: only with an operation in flight and no valid command in the latch. -/
theorem step_stops {s : State} (h : ∀ t, step s ≠ .next t) :
    s.STATUS.busy = true ∧ s.wait = 0 ∧ (decode s.OPL).isOk = false := by
  unfold step schedule at h
  split at h
  · exact absurd rfl (h _)
  · exact absurd rfl (h _)
  · next hb hw =>
    unfold completeStep fetch at h
    split at h
    · next i hd =>
      rcases exec_cases i s with ⟨-, v, cb, pv, he⟩ | ⟨-, he⟩ <;> exact absurd he (h _)
    · next e hd => exact ⟨hb, hw, by rw [hd]; rfl⟩

end Sys2Proof.Machine
end

