-- ==== Sys2Proof/Laws/PerInstr.lean ====
section
/-! SUPPORT. The statements made per instruction: one lemma per constructor. -/

namespace Sys2Proof.Laws

/-- The command byte of a well-formed instruction is one the opcode map lists (spec/30_encoding.md R73, R74). -/
def EncodingWord.Statement (i : Instr) : Prop :=
  i.wellFormed = true → commandWellFormed (encode i) = true

theorem EncodingWord.radd : EncodingWord.Statement .radd := fun _ => by decide
theorem EncodingWord.rsub : EncodingWord.Statement .rsub := fun _ => by decide
theorem EncodingWord.madd : EncodingWord.Statement .madd := fun _ => by decide
theorem EncodingWord.msub : EncodingWord.Statement .msub := fun _ => by decide
theorem EncodingWord.mul : EncodingWord.Statement .mul := fun _ => by decide
theorem EncodingWord.red : EncodingWord.Statement .red := fun _ => by decide
theorem EncodingWord.inv : EncodingWord.Statement .inv := fun _ => by decide

end Sys2Proof.Laws
end

