-- ==== Sys2Proof/Laws/Prime.lean ====
section
/-! SUPPORT. The modulus p is prime (spec/00_scope.md R13: "the NIST P-256 field prime"; R164 and R166 of spec/44_inverter.md use
it). Lucas's criterion down to small primes, the powers computed by repeated squaring on natural numbers. -/

-- One theorem at a time: each kernel evaluation would otherwise hold a thread of its own, with its stack, while it waits.
set_option Elab.async false

namespace Sys2Proof.Laws.Prime

/-- acc * b ^ e mod m by repeated squaring; the first argument is fuel, at least the length of e in bits. -/
def powMod (m : Nat) : Nat → Nat → Nat → Nat → Nat
  | 0, _, _, acc => acc
  | fuel + 1, b, e, acc => powMod m fuel (b * b % m) (e / 2) (if e % 2 = 1 then acc * b % m else acc)

theorem powMod_mod (m fuel b e acc : Nat) (he : e < 2 ^ fuel) :
    powMod m fuel b e acc % m = acc * b ^ e % m := by
  induction fuel generalizing b e acc with
  | zero =>
    have : e = 0 := by simpa using he
    subst this
    simp [powMod]
  | succ fuel ih =>
    rw [powMod, ih _ _ _ (by rw [pow_succ] at he; omega)]
    have hsq : (b * b % m) ^ (e / 2) % m = b ^ (2 * (e / 2)) % m := by
      rw [← Nat.pow_mod, ← pow_two, ← pow_mul]
    rcases Nat.mod_two_eq_zero_or_one e with h | h
    · have h2 : 2 * (e / 2) = e := by omega
      rw [if_neg (by omega), Nat.mul_mod, hsq, ← Nat.mul_mod, h2]
    · have h2 : b ^ e = b * b ^ (2 * (e / 2)) := by
        rw [← pow_succ']
        congr 1
        omega
      rw [if_pos h, Nat.mul_mod, hsq, Nat.mod_mod, ← Nat.mul_mod, h2, mul_assoc]

/-- Lucas's criterion in computable form: `a` has order n - 1 modulo n. -/
theorem prime_of_powers (n a : Nat) (factors : List Nat) (hn : 1 < n) (hlt : n - 1 < 2 ^ 256)
    (hp : ∀ q ∈ factors, q.Prime) (hprod : factors.prod = n - 1)
    (hone : powMod n 256 a (n - 1) 1 % n = 1)
    (hne : ∀ q ∈ factors, powMod n 256 a ((n - 1) / q) 1 % n ≠ 1) : n.Prime := by
  have key : ∀ e, e < 2 ^ 256 → ((a : ZMod n) ^ e = 1 ↔ powMod n 256 a e 1 % n = 1) := by
    intro e he
    rw [powMod_mod n 256 a e 1 he, one_mul, ← Nat.cast_pow, ← Nat.cast_one (R := ZMod n), ZMod.natCast_eq_natCast_iff',
      Nat.mod_eq_of_lt hn]
  refine lucas_primality n (a : ZMod n) ((key _ hlt).mpr hone) ?_
  intro q hq hd h
  have hmem : q ∈ factors := by
    rw [← hprod] at hd
    obtain ⟨r, hr, hqr⟩ := (Nat.Prime.prime hq).exists_mem_multiset_dvd (s := (factors : Multiset Nat)) (by simpa using hd)
    have hr' : r ∈ factors := by simpa using hr
    rwa [(Nat.prime_dvd_prime_iff_eq hq (hp r hr')).mp hqr]
  exact hne q hmem ((key _ (lt_of_le_of_lt (Nat.div_le_self _ _) hlt)).mp h)

theorem prime_204061199 : Nat.Prime 204061199 := by
  refine prime_of_powers _ 11
    [2, 11, 23, 107, 3769]
    (by norm_num) (by norm_num) ?_ (by norm_num) (by decide +kernel) (by decide +kernel)
  simp only [List.forall_mem_cons]
  exact ⟨by norm_num, by norm_num, by norm_num, by norm_num, by norm_num, List.forall_mem_nil _⟩

theorem prime_34282281433 : Nat.Prime 34282281433 := by
  refine prime_of_powers _ 17
    [2, 2, 2, 3, 7, 204061199]
    (by norm_num) (by norm_num) ?_ (by norm_num) (by decide +kernel) (by decide +kernel)
  simp only [List.forall_mem_cons]
  exact ⟨by norm_num, by norm_num, by norm_num, by norm_num, by norm_num, prime_204061199, List.forall_mem_nil _⟩

theorem prime_66417393611 : Nat.Prime 66417393611 := by
  refine prime_of_powers _ 6
    [2, 5, 53, 173, 197, 3677]
    (by norm_num) (by norm_num) ?_ (by norm_num) (by decide +kernel) (by decide +kernel)
  simp only [List.forall_mem_cons]
  exact ⟨by norm_num, by norm_num, by norm_num, by norm_num, by norm_num, by norm_num, List.forall_mem_nil _⟩

theorem prime_11290956913871 : Nat.Prime 11290956913871 := by
  refine prime_of_powers _ 13
    [2, 5, 17, 66417393611]
    (by norm_num) (by norm_num) ?_ (by norm_num) (by decide +kernel) (by decide +kernel)
  simp only [List.forall_mem_cons]
  exact ⟨by norm_num, by norm_num, by norm_num, prime_66417393611, List.forall_mem_nil _⟩

theorem prime_46076956964474543 : Nat.Prime 46076956964474543 := by
  refine prime_of_powers _ 5
    [2, 23, 18169, 78283, 704251]
    (by norm_num) (by norm_num) ?_ (by norm_num) (by decide +kernel) (by decide +kernel)
  simp only [List.forall_mem_cons]
  exact ⟨by norm_num, by norm_num, by norm_num, by norm_num, by norm_num, List.forall_mem_nil _⟩

theorem prime_774023187263532362759620327192479577272145303 : Nat.Prime 774023187263532362759620327192479577272145303 := by
  refine prime_of_powers _ 3
    [2, 3, 3, 2411, 34282281433, 11290956913871, 46076956964474543]
    (by norm_num) (by norm_num) ?_ (by norm_num) (by decide +kernel) (by decide +kernel)
  simp only [List.forall_mem_cons]
  exact ⟨by norm_num, by norm_num, by norm_num, by norm_num, prime_34282281433, prime_11290956913871, prime_46076956964474543, List.forall_mem_nil _⟩

theorem prime_835945042244614951780389953367877943453916927241 : Nat.Prime 835945042244614951780389953367877943453916927241 := by
  refine prime_of_powers _ 11
    [2, 2, 2, 3, 3, 3, 5, 774023187263532362759620327192479577272145303]
    (by norm_num) (by norm_num) ?_ (by norm_num) (by decide +kernel) (by decide +kernel)
  simp only [List.forall_mem_cons]
  exact ⟨by norm_num, by norm_num, by norm_num, by norm_num, by norm_num, by norm_num, by norm_num, prime_774023187263532362759620327192479577272145303, List.forall_mem_nil _⟩

theorem prime_modulus : Nat.Prime Machine.pNat := by
  rw [Machine.pNat_value]
  refine prime_of_powers _ 6
    [2, 3, 5, 5, 17, 257, 641, 1531, 65537, 490463, 6700417, 835945042244614951780389953367877943453916927241]
    (by norm_num) (by norm_num) ?_ (by norm_num) (by decide +kernel) (by decide +kernel)
  simp only [List.forall_mem_cons]
  exact ⟨by norm_num, by norm_num, by norm_num, by norm_num, by norm_num, by norm_num, by norm_num, by norm_num, by norm_num, by norm_num, by norm_num, prime_835945042244614951780389953367877943453916927241, List.forall_mem_nil _⟩

end Sys2Proof.Laws.Prime
end

