-- ==== Sys2Proof/Laws/Run.lean ====
section
/-! SUPPORT. Runs of the machine, one step at a time. -/

namespace Sys2Proof.Machine

@[simp] theorem run_zero (s : State) : run 0 s = .next s := rfl

/-- A run whose first step answers a next state goes on from there. -/
theorem run_succ_next {s t : State} (h : step s = .next t) (n : Nat) : run (n + 1) s = run n t := by
  rw [run, h]

/-- A run of one step is that step. -/
theorem run_one (s : State) : run 1 s = step s := by
  rw [run]
  cases step s <;> rfl

/-- Runs compose. -/
theorem run_add {s t : State} {m : Nat} (h : run m s = .next t) (n : Nat) : run (m + n) s = run n t := by
  induction m generalizing s with
  | zero =>
    cases Host.Outcome.next.inj h
    rw [Nat.zero_add]
  | succ m ih =>
    rw [Nat.add_right_comm]
    rw [run] at h ⊢
    cases hs : step s with
    | next u =>
      rw [hs] at h
      exact ih h
    | fault r =>
      rw [hs] at h
      cases h
    | refused r =>
      rw [hs] at h
      cases h

/-- One step of the host's own run, for any machine. -/
theorem core_run_succ (M : Host.Core) (n : Nat) (s : M.State) :
    (∀ t, M.step s = .next t → M.run (n + 1) s = M.run n t) ∧
      (∀ r, M.step s = .fault r → M.run (n + 1) s = .fault r) ∧
      (∀ r, M.step s = .refused r → M.run (n + 1) s = .refused r) := by
  refine ⟨?_, ?_, ?_⟩ <;> intro _ h <;> rw [Host.Core.run, h]

/-- `run` is the host's own run of the machine. -/
theorem run_eq_core_run (n : Nat) (s : State) : run n s = Host.Core.run core n s := by
  induction n generalizing s with
  | zero => rfl
  | succ n ih =>
    cases h : step s with
    | next t => exact (run_succ_next h n).trans ((ih t).trans ((core_run_succ core n s).1 t h).symm)
    | fault r =>
      rw [run, h]
      exact ((core_run_succ core n s).2.1 r h).symm
    | refused r =>
      rw [run, h]
      exact ((core_run_succ core n s).2.2 r h).symm

end Sys2Proof.Machine
end

