-- ==== Sys2Proof/Tests/Slice0.lean ====
section
/-! SUPPORT. Tests of the model against the spec's own vectors (spec/95_test_vectors.md, computed by its writer with an independent
arbitrary-precision reference), the smoke test of WellFormed, and a witness for each obligation that has hypotheses. -/

-- One theorem at a time: each kernel evaluation would otherwise hold a thread of its own, with its stack, while it waits.
set_option Elab.async false

namespace Sys2Proof.Tests

open Sys2Proof.Machine

/-- 2^256 - 1. -/
def ones : U256 := BitVec.allOnes 256

/-- The source's sample operand (95 section 1.5). -/
def sampleA : U256 := 0xF807060504030211080706050403021108070605040302110807060504030211#256

/-- Its inverse (95 section 1.5). -/
def sampleB : U256 := 0x432376B421B52B0242C0251CCFB46EC3D32E5F8A429F00915266228F4DD3DC99#256

/-- Their product (95 section 1.5, step 2). -/
def sampleT : U512 :=
  0x410C328AE51B4FBD384C5317F290FF96F068954742BFE398D7D469535BF6F6373EEA3DB5CA14B825B74D00AADFBE57D1769815422B4B5C803670880ACC95D829#512

/-- A small idle state: the given operands, and all ones in R so that a written 0 shows. -/
def idleWith (a b : U256) (t : U512) : State :=
  { State.reset with A := a, B := b, T := t, R := ones }

/-- One step on a state with the table word `w` in flight: R, T and the STATUS byte after it. -/
def runWord (w : Nat) (a b : U256) (t : U512) : Option (U256 × U512 × Byte) :=
  match step ((idleWith a b t).withFetchWord 8 w) with
  | .next u => some (u.R, u.T, hostRead u statusAddr)
  | .fault _ => none
  | .refused _ => none

/-! ### WellFormed: each check refuses an ill-formed byte (R71, R74) -/

theorem test_wellFormed_refuses_zero : commandWellFormed 0x00 = false := by decide
theorem test_wellFormed_refuses_eight : commandWellFormed 0x08 = false := by decide
theorem test_wellFormed_refuses_flagged_radd : commandWellFormed 0x81 = false := by decide
theorem test_wellFormed_accepts_inv : commandWellFormed 0x07 = true := by decide

/-! ### Decode: each word written out from R73's OP column -/

theorem test_decode_radd : decode 0b00000001#8 = .ok .radd := by decide
theorem test_decode_rsub : decode 0b00000010#8 = .ok .rsub := by decide
theorem test_decode_madd : decode 0b00000011#8 = .ok .madd := by decide
theorem test_decode_msub : decode 0b00000100#8 = .ok .msub := by decide
theorem test_decode_mul : decode 0b00000101#8 = .ok .mul := by decide
theorem test_decode_red : decode 0b00000110#8 = .ok .red := by decide
theorem test_decode_inv : decode 0b00000111#8 = .ok .inv := by decide
theorem test_decode_invalid : decode 0x81#8 = .error (.invalidCommand 0x81#8) := by decide
theorem test_decodeTableWord : decodeTableWord 8 0x07 = some .inv ∧ decodeTableWord 8 0x08 = none := by decide

/-! ### The constants (95 section 1.2) and the pure functions (95 sections 1.5, 2.3, 2.5, 2.6) -/

theorem test_modulus_bytes : ([0, 11, 12, 24, 25, 28, 31].map fun k => byteOf modulus k) =
    [0xFF, 0xFF, 0x00, 0x01, 0x00, 0xFF, 0xFF] := by decide
theorem test_reducerConst_bytes : ([0, 1, 12, 24, 25, 28, 31].map fun k => byteOf reducerConst k) =
    [0x01, 0x00, 0xFF, 0xFE, 0xFF, 0x00, 0x00] := by decide
theorem test_parity_of_257_bits : isEven (1#257 <<< 256) = true ∧ isOdd (1#257 <<< 256 ||| 1) = true ∧
    isOdd (BitVec.ofBool true ++ (modulus - 2)) = true := by decide +kernel
theorem test_canon_ones : canon ones = reducerConst - 1 := by decide
theorem test_halveMod_carry : halveMod (modulus - 2) = modulus - 1 := by decide
theorem test_terms_and_additions_sample :
    (terms sampleT).S4 = 0x5BF6F637384C5317410C328AE51B4FBD384C5317F068954742BFE398D7D46953#256 ∧
    (terms sampleT).D3 = 0xF290FF960000000042BFE398D7D469535BF6F637410C328AE51B4FBD384C5317#256 ∧
    (terms sampleT).added.foldl reduceAdd (canon (terms sampleT).T0) =
      0x5E05CB8F33CB5F89332878E01A944CEC74D792135E73D5605104D4F7006137B4#256 := by decide +kernel
theorem test_invertCounts_sample : invertCounts 511 (invertStart sampleA) = (180, 353) := by decide +kernel
theorem test_rawAddSerial_ripple : rawAddSerial ones 1 = (0, true) := by decide
theorem test_rawSubSerial_ripple : rawSubSerial 0 1 = (ones, true) := by decide
theorem test_geqSerial_byte_order : geqSerial 0xFF 0x100 = false := by decide
theorem test_multiplyPair_carry : multiplyPair (1#256 <<< 255) 2 0 31 0 = 1#512 <<< 256 := by decide +kernel

/-! ### One step of each command (95 sections 2.1, 2.2, 2.4, 2.5, 2.6) -/

theorem test_radd_wraps_and_ripples :
    runWord 0x01 ones 1 0 = some (0, 0, 0x06) ∧ runWord 0x01 0xFF 1 0 = some (0x100, 0, 0x02) := by decide +kernel
theorem test_rsub_borrows_and_ripples :
    runWord 0x02 0 ones 0 = some (1, 0, 0x06) ∧ runWord 0x02 0x100 1 0 = some (0xFF, 0, 0x02) := by decide +kernel
theorem test_madd_canon_stage_and_out_of_domain :
    runWord 0x03 (modulus - 1) 1 0 = some (0, 0, 0x02) ∧
    runWord 0x03 ones ones 0 = some (0x00000000FFFFFFFEFFFFFFFFFFFFFFFFFFFFFFFEFFFFFFFFFFFFFFFFFFFFFFFF#256, 0, 0x0E) := by
  decide +kernel
theorem test_msub_borrows_and_out_of_domain :
    runWord 0x04 0 1 0 = some (modulus - 1, 0, 0x06) ∧ runWord 0x04 1 ones 0 = some (2, 0, 0x0E) := by decide +kernel
theorem test_mul_largest_and_sample :
    runWord 0x05 ones ones 0 = some (ones, (BitVec.allOnes 255).setWidth 512 <<< 257 ||| 1, 0x02) ∧
    runWord 0x05 sampleA sampleB 0 = some (ones, sampleT, 0x02) := by decide +kernel
theorem test_inv_sample : runWord 0x07 sampleA 0 0 = some (sampleB, 0, 0x02) := by decide +kernel
theorem test_inv_out_of_domain :
    runWord 0x07 ones 0 0 = some (0xE1E1E1E10F0F0F0F69696969B4B4B4B45A5A5A5B0F0F0F0E87878787C3C3C3C2#256, 0, 0x0A) := by
  decide +kernel

/-! ### RED on the vectors of 95 section 2.5, which R213 asks a model to run

In every row CB = PV = 0, so STATUS reads 0x02, and T is unchanged. -/

/-- The step of RED gives R = r, T unchanged and STATUS = 0x02 on each pair (T, r). -/
def redGives (rows : List (U512 × U256)) : Bool :=
  rows.all fun (t, r) => runWord 0x06 0 0 t == some (r, t, 0x02)

/-- T with only c_k = 1, for k = 0 to 7: 2^(32k) is below p, so RED returns it unchanged. -/
theorem test_red_low_slices :
    redGives ((List.range 8).map fun k => (1#512 <<< (32 * k), 1#256 <<< (32 * k))) = true := by decide +kernel
/-- T with only c_k = 1, for k = 8 to 15: the table of 2^(32k) mod p. -/
theorem test_red_high_slices :
    redGives ([
      0x00000000FFFFFFFEFFFFFFFFFFFFFFFFFFFFFFFF000000000000000000000001#256,
      0xFFFFFFFEFFFFFFFFFFFFFFFFFFFFFFFF00000000000000000000000100000000#256,
      0xFFFFFFFE00000000FFFFFFFEFFFFFFFF000000010000000100000000FFFFFFFF#256,
      0xFFFFFFFE00000000FFFFFFFF000000000000000300000000FFFFFFFFFFFFFFFE#256,
      0xFFFFFFFE00000001000000000000000200000002FFFFFFFFFFFFFFFEFFFFFFFE#256,
      0xFFFFFFFE00000002000000020000000200000001FFFFFFFEFFFFFFFEFFFFFFFE#256,
      0x00000000000000030000000200000000FFFFFFFFFFFFFFFEFFFFFFFEFFFFFFFF#256,
      0x000000030000000200000000FFFFFFFFFFFFFFFEFFFFFFFEFFFFFFFF00000000#256].zipIdx.map fun (r, k) => (1#512 <<< (32 * (8 + k)), r)) = true := by decide +kernel
/-- The first ten vectors: 0, 1, p - 1, p, p + 1, 2^256 - 1, 2^256, 2p, SA, SA * SA. -/
theorem test_red_vectors_to_sample_square :
    redGives [
      (0#512,
        0#256),
      (1#512,
        1#256),
      (0xFFFFFFFF00000001000000000000000000000000FFFFFFFFFFFFFFFFFFFFFFFE#512,
        0xFFFFFFFF00000001000000000000000000000000FFFFFFFFFFFFFFFFFFFFFFFE#256),
      (0xFFFFFFFF00000001000000000000000000000000FFFFFFFFFFFFFFFFFFFFFFFF#512,
        0#256),
      (0xFFFFFFFF00000001000000000000000000000001000000000000000000000000#512,
        1#256),
      (0xFFFFFFFFFFFFFFFFFFFFFFFFFFFFFFFFFFFFFFFFFFFFFFFFFFFFFFFFFFFFFFFF#512,
        0xFFFFFFFEFFFFFFFFFFFFFFFFFFFFFFFF000000000000000000000000#256),
      (0x10000000000000000000000000000000000000000000000000000000000000000#512,
        0xFFFFFFFEFFFFFFFFFFFFFFFFFFFFFFFF000000000000000000000001#256),
      (0x1FFFFFFFE00000002000000000000000000000001FFFFFFFFFFFFFFFFFFFFFFFE#512,
        0#256),
      (0xF807060504030211080706050403021108070605040302110807060504030211#512,
        0xF807060504030211080706050403021108070605040302110807060504030211#256),
      (0xF04D9BDB0C30487468C3053045453229E2386E857E5A1BDF5BADD7DAB76F0594C59534C33FA902416C1FCB6E0694188BF2AA6218CD7F2ED67934F8C3946A4521#512,
        0x3F524C2E9A7B3B13E5C1782D94CCDBF9A6FE2F59C8D0CFBAA8B6D0D40B16343F#256)] = true := by decide +kernel
/-- The other nine: SA * SB, (p - 1)^2, p^2, p * r, (2^256 - 1) * 2^256, 2^512 - 1, (2^256 - 1)^2, (2^32 - 1)(2^352 + 2^288),
2^511. -/
theorem test_red_vectors_from_sample_product :
    redGives [
      (0x410C328AE51B4FBD384C5317F290FF96F068954742BFE398D7D469535BF6F6373EEA3DB5CA14B825B74D00AADFBE57D1769815422B4B5C803670880ACC95D829#512,
        1#256),
      (0xFFFFFFFE00000002FFFFFFFE0000000100000001FFFFFFFE00000001FFFFFFFC00000003FFFFFFFCFFFFFFFFFFFFFFFFFFFFFFFC000000000000000000000004#512,
        1#256),
      (0xFFFFFFFE00000002FFFFFFFE0000000100000001FFFFFFFE00000001FFFFFFFE00000001FFFFFFFEFFFFFFFFFFFFFFFFFFFFFFFE000000000000000000000001#512,
        0#256),
      (0xFFFFFFFE00000001FFFFFFFEFFFFFFFF00000001FFFFFFFE00000000FFFFFFFE00000001000000000000000000000001FFFFFFFFFFFFFFFFFFFFFFFF#512,
        0#256),
      (0xFFFFFFFFFFFFFFFFFFFFFFFFFFFFFFFFFFFFFFFFFFFFFFFFFFFFFFFFFFFFFFFF0000000000000000000000000000000000000000000000000000000000000000#512,
        0x3FFFFFFFEFFFFFFFFFFFFFFFEFFFFFFFCFFFFFFFF0000000000000002#256),
      (0xFFFFFFFFFFFFFFFFFFFFFFFFFFFFFFFFFFFFFFFFFFFFFFFFFFFFFFFFFFFFFFFFFFFFFFFFFFFFFFFFFFFFFFFFFFFFFFFFFFFFFFFFFFFFFFFFFFFFFFFFFFFFFFFF#512,
        0x4FFFFFFFDFFFFFFFFFFFFFFFEFFFFFFFBFFFFFFFF0000000000000002#256),
      (0xFFFFFFFFFFFFFFFFFFFFFFFFFFFFFFFFFFFFFFFFFFFFFFFFFFFFFFFFFFFFFFFE0000000000000000000000000000000000000000000000000000000000000001#512,
        0x2FFFFFFFFFFFFFFFFFFFFFFFEFFFFFFFDFFFFFFFF0000000000000002#256),
      (0xFFFFFFFF00000000FFFFFFFF000000000000000000000000000000000000000000000000000000000000000000000000#512,
        0xFFFFFFFE00000002000000000000000200000001FFFFFFFFFFFFFFFEFFFFFFFE#256),
      (0x80000000000000000000000000000000000000000000000000000000000000000000000000000000000000000000000000000000000000000000000000000000#512,
        0x80000001FFFFFFFF7FFFFFFFFFFFFFFF7FFFFFFE7FFFFFFF8000000000000001#256)] = true := by decide +kernel

/-! ### The window, issue, the lock-out and reset (95 section 2.7) -/

theorem test_reset_status : hostRead State.reset statusAddr = 0x00 ∧ hostRead State.reset cmdAddr = 0x00 := by decide
theorem test_write_last_byte_of_B :
    (hostWrite State.reset 0x3F 0xA5).B = 0xA5#256 <<< 248 ∧ (hostWrite State.reset 0x3F 0xA5).A = 0 := by decide
theorem test_P_is_read_only : hostRead (hostWrite State.reset 0xA0 0x00) 0xA0 = 0xFF := by decide
theorem test_reserved_reads_zero : hostRead (hostWrite State.reset 0xF0 0xFF) 0xF0 = 0x00 := by decide
theorem test_invalid_command : hostRead (hostWrite State.reset 0xE0 0x81) 0xE1 = 0x10 ∧
    hostRead (hostWrite State.reset 0xE0 0x81) 0xE0 = 0x81 := by decide
theorem test_invalid_command_clears_flags :
    let s := { State.reset with STATUS := { Status.zero with done := true, cb := true }, R := modulus - 1 }
    hostRead (hostWrite s 0xE0 0x09) 0xE1 = 0x10 ∧ (hostWrite s 0xE0 0x09).R = modulus - 1 := by decide
theorem test_valid_command_clears_ill :
    let s := hostWrite (hostWrite State.reset 0xE0 0x81) 0xE0 0x01
    s.STATUS.ill = false ∧ s.STATUS.busy = true ∧ s.OPL = 0x01 := by decide

/-- An INV in flight on the sample operand. -/
def invInFlight : State := inFlight (idleWith sampleA 1 0) 0x07

/-- A MUL in flight on the sample operands. -/
def mulInFlight : State := inFlight (idleWith sampleA sampleB 0) 0x05

theorem test_busy_drops_writes : hostWrite invInFlight 0x00 0x00 = invInFlight ∧ hostWrite invInFlight 0xE0 0x05 = invInFlight := by
  decide +kernel
theorem test_busy_defined_reads :
    hostRead invInFlight 0x00 = 0x11 ∧ hostRead invInFlight 0xA0 = 0xFF ∧ hostRead invInFlight 0xE0 = 0x07 := by decide
theorem test_busy_mul_reads_R : hostRead mulInFlight 0x80 = 0xFF := by decide
theorem test_load_script_first_step :
    hostTurn (State.reset.withScript [.ldB sampleB]) =
      { State.reset with B := 0x99, script := (expand (.ldB sampleB)).tail } := by decide +kernel

/-! ### Witnesses: concrete states and operands that meet the obligations' hypotheses -/

/-- A legal state with an operation in flight, and so every hypothesis on a busy state. -/
theorem witness_legal_busy : Legal invInFlight where
  notBusyDone _ := rfl
  busyNotIll _ := rfl
  latchValid _ := by decide
  commandKept _ := rfl
  idleNoWait h := nomatch h
  illAlone h := nomatch h
  illCommand h := nomatch h
  flagsFromComplete h := nomatch h
  doneCommand h := nomatch h
  clearedCB _ h := nomatch h
  clearedPV _ h := nomatch h
  resultCanonical _ h := nomatch h

theorem witness_StepRunsDecodedInstruction :
    invInFlight.STATUS.busy = true ∧ invInFlight.wait = 0 ∧ Instr.inv.wellFormed = true ∧
      decode (fetch invInFlight) = .ok .inv := by decide

theorem witness_StepIsHostTurnOtherwise :
    State.reset.STATUS.busy = false ∧ ({ invInFlight with wait := 2 } : State).STATUS.busy = true ∧
      ({ invInFlight with wait := 2 } : State).wait = 1 + 1 := by decide

theorem witness_AcceptedCommandRunsItsInstruction :
    State.reset.STATUS.busy = false ∧
      ∃ u : State, u.STATUS = (hostWrite State.reset cmdAddr (encode .mul)).STATUS ∧
        u.OPL = (hostWrite State.reset cmdAddr (encode .mul)).OPL ∧ u.wait = 0 :=
  ⟨rfl, { hostWrite State.reset cmdAddr (encode .mul) with wait := 0 }, rfl, rfl, rfl⟩

/-- One script for each clause of HostTurnRunsTheScript. -/
theorem witness_HostTurnRunsTheScript :
    State.reset.script = [] ∧
    ∀ op ∈ [HostOp.rd 0xFF, .wr 0xE0 0x07, .rdTo 0x80 0x20, .poll, .reset, .resetWr 0x00 0x01, .resetRd 0x80],
      ({ State.reset with script := [op] } : State).script = op :: [] :=
  ⟨rfl, fun _ _ => rfl⟩

theorem witness_ValidCommandIsAccepted : State.reset.STATUS.busy = false ∧ decode 0x07 = .ok .inv := by decide

theorem witness_InvalidCommandSetsIll :
    State.reset.STATUS.busy = false ∧ decode 0x08 = .error (.invalidCommand 0x08) ∧
      (hostWrite State.reset cmdAddr 0x08).STATUS.busy = false ∧ (hostWrite State.reset cmdAddr 0x08).STATUS.ill = true ∧
      ∃ t, step (hostWrite State.reset cmdAddr 0x08) = .next t :=
  ⟨rfl, rfl, rfl, rfl, _, rfl⟩

theorem witness_BusyDropsEveryWrite : invInFlight.STATUS.busy = true := rfl

/-- A boundary address for each clause of BusyReads, with the latch that clause asks for. -/
theorem witness_BusyReads :
    invInFlight.STATUS.busy = true ∧ mulInFlight.STATUS.busy = true ∧
    (0x3F#8).toNat < 0x40 ∧ 0xA0 ≤ (0xA0#8).toNat ∧ (0xA0#8) ≠ statusAddr ∧
    0x40 ≤ (0x40#8).toNat ∧ (0x7F#8).toNat < 0x80 ∧ 0x80 ≤ (0x80#8).toNat ∧ (0x9F#8).toNat < 0xA0 ∧
    mulInFlight.OPL = encode .mul ∧ invInFlight.OPL ≠ encode .mul ∧ statusAddr = 0xE1 ∧ Legal invInFlight :=
  ⟨rfl, rfl, by decide, by decide, by decide, by decide, by decide, by decide, by decide, rfl, by decide, rfl,
    witness_legal_busy⟩

/-- The first and last address of each range of IdleReads and HostWrites. -/
theorem witness_IdleReads :
    State.reset.STATUS.busy = false ∧ (0x1F#8).toNat < 0x20 ∧ 0x20 ≤ (0x20#8).toNat ∧ (0x3F#8).toNat < 0x40 ∧
    0x40 ≤ (0x40#8).toNat ∧ (0x7F#8).toNat < 0x80 ∧ 0x80 ≤ (0x80#8).toNat ∧ (0x9F#8).toNat < 0xA0 ∧
    0xA0 ≤ (0xA0#8).toNat ∧ (0xBF#8).toNat < 0xC0 ∧ 0xC0 ≤ (0xC0#8).toNat ∧ (0xDF#8).toNat < 0xE0 ∧
    0xE2 ≤ (0xE2#8).toNat ∧ ({ State.reset with script := [.rd 0xE2] } : State).script = .rd 0xE2 :: [] := by decide

theorem witness_HostWrites :
    invInFlight.STATUS.busy = true ∧ State.reset.STATUS.busy = false ∧ (0x1F#8).toNat < 0x20 ∧
    0x20 ≤ (0x20#8).toNat ∧ (0x3F#8).toNat < 0x40 ∧ 0x40 ≤ (0x40#8).toNat ∧ (0x7F#8).toNat < 0x80 ∧
    0x80 ≤ (0x80#8).toNat ∧ (0xE1#8) ≠ 0xE0 := by decide

theorem witness_WindowReadAfterWrite :
    State.reset.STATUS.busy = false ∧ (0x7F#8).toNat < 0x80 ∧ 0x80 ≤ (0xE1#8).toNat ∧ (0xE1#8) ≠ cmdAddr := by decide

theorem witness_ResetLeavesBlockReady : (0x7F#8).toNat < 0x80 := by decide

/-- A script for each form of Reset, the block idle and, at the boundary, with one host step of latency left; the first and last
address of the constants. -/
theorem witness_ResetAbandonsOperation :
    ∀ s ∈ [State.reset, { invInFlight with wait := 1 }],
      (s.STATUS.busy = true → 0 < s.wait) ∧
      ∀ op ∈ [HostOp.reset, .resetWr 0x00 0x01, .resetRd 0x80],
        (({ s with script := [op] } : State).STATUS.busy = true → 0 < ({ s with script := [op] } : State).wait) ∧
        ({ s with script := [op] } : State).script = op :: [] ∧
        0xA0 ≤ (0xA0#8).toNat ∧ (0xDF#8).toNat < 0xE0 := by decide

theorem witness_MaddResult : InDomain .madd (idleWith (modulus - 1) 1 0) := by
  unfold InDomain idleWith
  decide

theorem witness_MsubResult : InDomain .msub (idleWith 0 (modulus - 1) 0) := by
  unfold InDomain idleWith
  decide

theorem witness_InvResult :
    (idleWith 1 0 0).A.toNat % pNat ≠ 0 ∧ 1 < pNat ∧ (idleWith 1 0 0).A.toNat * 1 % pNat = 1 ∧
    (idleWith 0 0 0).A.toNat = 0 ∧ (idleWith modulus 0 0).A.toNat = pNat := by
  decide

/-- The addresses on either side of the destination registers, for the window clause of CompletionFrame. -/
theorem witness_CompletionFrame :
    (0x3F#8) ≠ statusAddr ∧ (0x3F#8).toNat < 0x40 ∧ 0x80 ≤ (0x80#8).toNat ∧ (0x7F#8).toNat < 0x80 ∧
      0xA0 ≤ (0xA0#8).toNat := by decide

theorem witness_CompletionStatusByte :
    (idleWith 0 1 0).STATUS.ill = false ∧ ∃ t, exec .rsub (idleWith 0 1 0) = .next t :=
  ⟨rfl, _, rfl⟩

theorem witness_PvIsOutOfDomain : ∃ t, exec .inv (idleWith 0 0 0) = .next t := ⟨_, rfl⟩

theorem witness_ResultDependsOnOperandsOnly :
    (idleWith 3 5 0).A = ({ idleWith 3 5 0 with R := 0, CMD := 0x07 } : State).A ∧
    (∃ t, exec .madd (idleWith 3 5 0) = .next t) ∧
    ∃ t, exec .madd { idleWith 3 5 0 with R := 0, CMD := 0x07 } = .next t :=
  ⟨rfl, ⟨_, rfl⟩, _, rfl⟩

theorem witness_ShiftPrimitives : isEven (modulus - 1) = true := by decide

theorem witness_ModAddSubInDomain : (modulus - 1).toNat < pNat ∧ (0 : U256).toNat < pNat := by decide

theorem witness_CanonIsResidue : pNat ≤ modulus.toNat ∧ ¬ pNat ≤ (modulus - 1).toNat := by decide

/-- Operands on either side of each boundary of R116: the sums 2^256 + p - 1 and 2^256 + p, the differences -p and -p - 1. -/
theorem witness_ModAddSubOutOfDomain :
    ones.toNat + modulus.toNat < 2 ^ 256 + pNat ∧ 2 ^ 256 + pNat ≤ ones.toNat + (modulus + 1).toNat ∧
    modulus.toNat ≤ (0 : U256).toNat + pNat ∧ (0 : U256).toNat + pNat < (modulus + 1).toNat := by decide

theorem witness_FieldAddSubLaws :
    sampleA.toNat < pNat ∧ sampleB.toNat < pNat ∧ (modulus - 1).toNat < pNat := by decide

theorem witness_HalveModIsHalf :
    (modulus - 2).toNat < pNat ∧ (modulus - 2).toNat % 2 = 1 ∧ (modulus - 1).toNat < pNat ∧ (modulus - 1).toNat % 2 = 0 := by
  decide

theorem witness_HalvingEndsOdd : (1#256 <<< 255).toNat ≠ 0 ∧ 256 ≤ 511 := by decide

theorem witness_InvertInvariantKept : InvertInv 1 (invertStart 1) ∧ isZero (invertStart 1).U = false where
  left := {
    first := by unfold Nat.ModEq; decide
    second := by unfold Nat.ModEq; decide
    canonicalX1 := by decide
    canonicalX2 := by decide
    gcdKept := by decide
    positiveV := by decide
    oneOdd := by decide }
  right := by decide

theorem witness_InvertTerminates : 511 ≤ 512 := by decide

theorem witness_InvertExitState : sampleA.toNat % pNat ≠ 0 := by decide

theorem witness_StepKeepsLegal : Legal invInFlight ∧ ∃ t, step invInFlight = .next t :=
  ⟨witness_legal_busy, _, rfl⟩

theorem witness_LegalStepsNeverStop : Legal invInFlight := witness_legal_busy

/-- The state after reset is legal and idle; so is every state `State.resetWith` gives. -/
theorem witness_IdleStatusValues : Legal (State.resetWith default 3 [] []) ∧
    (State.resetWith default 3 [] []).STATUS.busy = false where
  left := {
    notBusyDone := fun h => nomatch h
    busyNotIll := fun h => nomatch h
    latchValid := fun h => nomatch h
    commandKept := fun h => nomatch h
    idleNoWait := fun _ => rfl
    illAlone := fun h => nomatch h
    illCommand := fun h => nomatch h
    flagsFromComplete := fun _ h => h.elim (fun h => nomatch h) (fun h => nomatch h)
    doneCommand := fun h => nomatch h
    clearedCB := fun _ h => nomatch h
    clearedPV := fun _ h => nomatch h
    resultCanonical := fun _ h => nomatch h }
  right := rfl

theorem witness_BusyFallsInBoundedTime : Legal invInFlight ∧ invInFlight.STATUS.busy = true :=
  ⟨witness_legal_busy, rfl⟩

theorem witness_OperandsHeldUntilComplete :
    let s := State.reset.withScript [.ldA 0, .flags, .cpRA]
    s.STATUS.busy = false ∧ ∀ op ∈ s.script, isReset op = false := by decide

theorem witness_LoadPseudoInstructions :
    (State.reset.withScript [.ldA sampleA]).STATUS.busy = false ∧
    (State.reset.withScript [.ldA sampleA]).script = expand (.ldA sampleA) ++ [] ∧
    (State.reset.withScript [.ldB sampleA]).script = expand (.ldB sampleA) ++ [] ∧
    (State.reset.withScript [.ldT sampleT]).script = expand (.ldT sampleT) ++ [] :=
  ⟨rfl, (List.append_nil _).symm, (List.append_nil _).symm, (List.append_nil _).symm⟩

theorem witness_StorePseudoInstructions :
    (State.reset.withScript [.stR]).STATUS.busy = false ∧
    (State.reset.withScript [.stR]).script = expand .stR ++ [] ∧
    (State.reset.withScript [.stT]).script = expand .stT ++ [] := by decide

theorem witness_CopyPseudoInstructions :
    (State.reset.withScript [.cpRA]).STATUS.busy = false ∧
    (State.reset.withScript [.cpRA]).script = expand .cpRA ++ [] ∧
    (State.reset.withScript [.cpRB]).script = expand .cpRB ++ [] := by decide

theorem witness_CommandLineEndsWithItsResult :
    (State.reset.withScript [.cmd .inv, .stR]).STATUS.busy = false ∧
    (State.reset.withScript [.cmd .inv, .stR]).script = expand (.cmd .inv) ++ expand .stR := by decide

end Sys2Proof.Tests
end

section
/-! The schedule's two host cases (spec/00_scope.md R6, spec/60_exceptions.md R184) and the hardwired constants
(spec/00_scope.md R5, spec/10_state.md R30). -/

namespace Sys2Proof.Machine

/-- An idle block leaves the step to the host, whatever is left in `wait`. -/
theorem step_of_idle {s : State} (idle : s.STATUS.busy = false) : step s = .next (hostTurn s) := by
  rw [step, schedule, idle]

/-- A host step of latency is used up before the host's turn is taken. -/
theorem step_of_latency {s : State} {n : Nat} (busy : s.STATUS.busy = true) (wait : s.wait = n + 1) :
    step s = .next (hostTurn { s with wait := n }) := by
  rw [step, schedule, busy, wait]

/-- Settles O4: the schedule's two cases other than `Complete`. -/
theorem stepIsHostTurnOtherwise : Obligations.StepIsHostTurnOtherwise :=
  fun _ => ⟨step_of_idle, fun _ => step_of_latency⟩

theorem modulus_add_reducerConst : modulus.toNat + reducerConst.toNat = 2 ^ 256 := by
  rw [modulus_toNat, reducerConst_toNat]
  exact Nat.add_sub_of_le pNat_bounds.1.le

/-- RC is what one subtraction of p leaves of 2^256, as 2^256 lies between p and 2p (spec/10_state.md R30). -/
theorem reducerConst_eq_mod : reducerConst.toNat = 2 ^ 256 % modulus.toNat := by
  obtain ⟨below, above, -⟩ := pNat_bounds
  have remainder_lt : 2 ^ 256 - pNat < pNat := by omega
  rw [modulus_toNat, reducerConst_toNat, Nat.mod_eq_sub_mod below.le, Nat.mod_eq_of_lt remainder_lt]

/-- The powers of two that remain of 2^256 when p's formula is taken from it (spec/00_scope.md R5). -/
theorem reducerConst_formula : reducerConst.toNat = 2 ^ 224 - 2 ^ 192 - 2 ^ 96 + 1 := by
  rw [reducerConst_toNat, pNat]
  omega

/-- Settles O16, from the constants' formulas and p's bounds. -/
theorem constantsAreTheFormulas : Obligations.ConstantsAreTheFormulas :=
  ⟨modulus_toNat, reducerConst_formula, reducerConst_eq_mod, modulus_add_reducerConst⟩

end Sys2Proof.Machine
end

section
/-! The corrections keep values below p for all operands, those outside the source's domain included (spec/41_mod_addsub.md
R110, R116; spec/42_reducer.md R132; spec/44_inverter.md R161, R166 (b)). -/

namespace Sys2Proof.Machine

/-- One subtraction of p is enough for every 256-bit value, as 2^256 < 2p (spec/41_mod_addsub.md R110). -/
theorem canon_lt (v : U256) : (canon v).toNat < pNat := by
  obtain ⟨below, above, -⟩ := pNat_bounds
  have v_lt := v.isLt
  rcases canon_cases v with ⟨small, kept⟩ | ⟨large, corrected⟩
  · rw [kept]
    omega
  · rw [corrected, BitVec.toNat_add, reducerConst_toNat]
    omega

theorem modAdd_lt (x y : U256) : (modAdd x y).1.toNat < pNat := by
  simp only [modAdd]
  exact canon_lt (addLit x y)

theorem modSub_lt (x y : U256) : (modSub x y).1.toNat < pNat := by
  simp only [modSub]
  exact canon_lt (subLit x y)

theorem reduceAdd_lt (acc term : U256) : (reduceAdd acc term).toNat < pNat := by
  rw [reduceAdd]
  exact modAdd_lt acc (canon term)

theorem reduceSub_lt (acc term : U256) : (reduceSub acc term).toNat < pNat := by
  rw [reduceSub]
  exact modSub_lt acc (canon term)

/-- The seed is canonical, and so is what each addition and each subtraction leaves (spec/42_reducer.md R132). -/
theorem reduce_lt (t : U512) : (reduce t).toNat < pNat := by
  have added : ((terms t).added.foldl reduceAdd (canon (terms t).T0)).toNat < pNat :=
    List.foldlRecOn (motive := fun acc => acc.toNat < pNat) _ _ (canon_lt _) fun acc _ term _ => reduceAdd_lt acc term
  rw [reduce]
  exact List.foldlRecOn (motive := fun acc => acc.toNat < pNat) _ _ added fun acc _ term _ => reduceSub_lt acc term

/-- halveMod keeps the carry of W + p, so nothing of the sum is lost in the halving (spec/44_inverter.md R161). -/
theorem halveMod_toNat (w : U256) :
    (halveMod w).toNat = if w.toNat % 2 = 1 then (w.toNat + pNat) / 2 else w.toNat / 2 := by
  have w_lt := w.isLt
  obtain ⟨below, -, -⟩ := pNat_bounds
  by_cases odd : w.toNat % 2 = 1
  · have halved : halveMod w = shr1c (rawAdd w modulus).2 (rawAdd w modulus).1 := by
      simp only [halveMod, isOdd_eq, odd, decide_true, if_true]
    have sum : (rawAdd w modulus).2.toNat * 2 ^ 256 + (rawAdd w modulus).1.toNat = w.toNat + pNat := by
      rw [rawAdd_fst_toNat, rawAdd_snd, modulus_toNat]
      by_cases carry : 2 ^ 256 ≤ w.toNat + pNat
      · rw [decide_eq_true carry, Bool.toNat_true]
        omega
      · rw [decide_eq_false carry, Bool.toNat_false]
        omega
    rw [halved, shr1c_toNat, sum, if_pos odd]
  · have halved : halveMod w = shr1 w := by simp [halveMod, isOdd_eq, odd]
    rw [halved, shr1_toNat, if_neg odd]

theorem halveMod_lt {w : U256} (canonical : w.toNat < pNat) : (halveMod w).toNat < pNat := by
  rw [halveMod_toNat]
  split <;> omega

theorem halveWhileEven_lt (fuel : Nat) (u : U256) {x : U256} (canonical : x.toNat < pNat) :
    (halveWhileEven fuel u x).2.toNat < pNat := by
  induction fuel generalizing u x with
  | zero => exact canonical
  | succ fuel ih =>
    rw [halveWhileEven]
    split
    · exact ih _ (halveMod_lt canonical)
    · exact canonical

/-- Part (b) of the inverter's invariant alone: it holds of every start, the excluded ones included (spec/44_inverter.md R166,
R168). -/
def Pairs.Canonical (q : Pairs) : Prop :=
  q.X1.toNat < pNat ∧ q.X2.toNat < pNat

theorem invertStart_canonical (x : U256) : (invertStart x).Canonical := by
  have one_and_zero : (1 : U256).toNat < pNat ∧ (0 : U256).toNat < pNat := by decide
  exact one_and_zero

theorem halveBoth_canonical {q : Pairs} (canonical : q.Canonical) : (halveBoth q).Canonical :=
  ⟨halveWhileEven_lt 256 q.U canonical.1, halveWhileEven_lt 256 q.V canonical.2⟩

theorem step3_canonical {q : Pairs} (canonical : q.Canonical) : (step3 q).Canonical := by
  unfold step3
  split <;> dsimp only [Pairs.Canonical]
  · exact ⟨modSub_lt q.X1 q.X2, canonical.2⟩
  · exact ⟨canonical.1, modSub_lt q.X2 q.X1⟩

theorem invertLoop_canonical (fuel : Nat) {q : Pairs} (canonical : q.Canonical) : (invertLoop fuel q).Canonical := by
  induction fuel generalizing q with
  | zero => exact canonical
  | succ fuel ih =>
    rw [invertLoop]
    split
    · exact canonical
    · exact ih (step3_canonical (halveBoth_canonical canonical))

theorem invert_lt (x : U256) : (invert x).toNat < pNat := by
  rw [invert]
  exact (invertLoop_canonical 511 (invertStart_canonical x)).2

end Sys2Proof.Machine
end

section
/-! What a command writes, as a function of A, B and T alone (spec/10_state.md R27, R33, R35; spec/60_exceptions.md R182), and
`exec` in those terms: what it leaves alone is everything else. -/

namespace Sys2Proof.Machine

/-- T after the command, `t` being T before it: MUL's product (spec/10_state.md R35). -/
def finalT : Instr → U256 → U256 → U512 → U512
  | .mul, a, b, _ => multiply a b
  | .radd, _, _, t | .rsub, _, _, t | .madd, _, _, t | .msub, _, _, t | .red, _, _, t | .inv, _, _, t => t

/-- R after the command, `r` being R before it, which MUL keeps (spec/10_state.md R35). -/
def finalR : Instr → U256 → U256 → U512 → U256 → U256
  | .radd, a, b, _, _ => (rawAdd a b).1
  | .rsub, a, b, _, _ => (rawSub a b).1
  | .madd, a, b, _, _ => (modAdd a b).1
  | .msub, a, b, _, _ => (modSub a b).1
  | .mul, _, _, _, r => r
  | .red, _, _, t, _ => reduce t
  | .inv, a, _, _, _ => invert a

/-- CB as the command writes it (spec/10_state.md R27). -/
def finalCB : Instr → U256 → U256 → Bool
  | .radd, a, b | .madd, a, b => (rawAdd a b).2
  | .rsub, a, b | .msub, a, b => (rawSub a b).2
  | .mul, _, _ | .red, _, _ | .inv, _, _ => false

/-- PV as the command writes it (spec/60_exceptions.md R182). -/
def finalPV : Instr → U256 → U256 → Bool
  | .madd, a, b | .msub, a, b => pvModular a b
  | .inv, a, _ => pvInverse a
  | .radd, _, _ | .rsub, _, _ | .mul, _, _ | .red, _, _ => false

/-- The state after the command's `Complete`. -/
def completed (i : Instr) (s : State) : State :=
  { s with
    T := finalT i s.A s.B s.T
    R := finalR i s.A s.B s.T s.R
    STATUS := completeStatus s.STATUS (finalCB i s.A s.B) (finalPV i s.A s.B) }

/-- Every command completes in every state. -/
theorem exec_eq_completed (i : Instr) (s : State) : exec i s = .next (completed i s) := by
  cases i
  case madd =>
    simp only [completed, finalR, modAdd]
    rfl
  case msub =>
    simp only [completed, finalR, modSub]
    rfl
  all_goals rfl

theorem exec_next_iff (i : Instr) (s t : State) : exec i s = .next t ↔ t = completed i s := by
  rw [exec_eq_completed, Host.Outcome.next.injEq, eq_comm]

@[simp] theorem completed_T (i : Instr) (s : State) : (completed i s).T = finalT i s.A s.B s.T := rfl
@[simp] theorem completed_R (i : Instr) (s : State) : (completed i s).R = finalR i s.A s.B s.T s.R := rfl
@[simp] theorem completed_CMD (i : Instr) (s : State) : (completed i s).CMD = s.CMD := rfl
@[simp] theorem completed_STATUS (i : Instr) (s : State) :
    (completed i s).STATUS = completeStatus s.STATUS (finalCB i s.A s.B) (finalPV i s.A s.B) := rfl

theorem finalT_of_ne_mul {i : Instr} (other : i ≠ .mul) (a b : U256) (t : U512) : finalT i a b t = t := by
  cases i
  case mul => exact absurd rfl other
  all_goals rfl

/-- Every command but MUL writes all of R. -/
theorem finalR_of_ne_mul {i : Instr} (other : i ≠ .mul) (a b : U256) (t : U512) (r₁ r₂ : U256) :
    finalR i a b t r₁ = finalR i a b t r₂ := by
  cases i
  case mul => exact absurd rfl other
  all_goals rfl

theorem finalCB_of_clearsCB {i : Instr} (clears : clearsCB i = true) (a b : U256) : finalCB i a b = false := by
  cases i
  case mul | red | inv => rfl
  all_goals cases clears

theorem finalPV_of_clearsPV {i : Instr} (clears : clearsPV i = true) (a b : U256) : finalPV i a b = false := by
  cases i
  case radd | rsub | mul | red => rfl
  all_goals cases clears

/-- The commands whose result is canonical for every operand (spec/41_mod_addsub.md R116, spec/44_inverter.md R168). -/
theorem finalR_lt {i : Instr} (canonical : canonicalR i = true) (a b : U256) (t : U512) (r : U256) :
    (finalR i a b t r).toNat < pNat := by
  cases i
  case madd => exact modAdd_lt a b
  case msub => exact modSub_lt a b
  case red => exact reduce_lt t
  case inv => exact invert_lt a
  all_goals cases canonical

/-- A window byte shows one register alone: T in 0x40 to 0x7F, R in 0x80 to 0x9F, STATUS at its own address (spec/20_memory.md
R51). -/
theorem windowByte_congr {s t : State} {addr : Byte} (sameA : t.A = s.A) (sameB : t.B = s.B) (sameCMD : t.CMD = s.CMD)
    (sameT : 0x40 ≤ addr.toNat → addr.toNat < 0x80 → t.T = s.T)
    (sameR : 0x80 ≤ addr.toNat → addr.toNat < 0xA0 → t.R = s.R)
    (sameSTATUS : addr = statusAddr → t.STATUS = s.STATUS) : windowByte t addr = windowByte s addr := by
  have spec := region_spec addr
  unfold windowByte
  cases named : region addr <;> rw [named] at spec <;> dsimp only at spec ⊢
  case a k => rw [sameA]
  case b k => rw [sameB]
  case t k => rw [sameT (by omega) (by omega)]
  case r k => rw [sameR (by omega) (by omega)]
  case cmd => exact sameCMD
  case status => rw [sameSTATUS (BitVec.eq_of_toNat_eq spec)]

/-- Settles O26: the state `completed` names differs from the one before in T or R, by the command, and in STATUS. -/
theorem completionFrame : Obligations.CompletionFrame := by
  intro i s
  have keepsT : i ≠ .mul → (completed i s).T = s.T := fun other => finalT_of_ne_mul other _ _ _
  have keepsR : i = .mul → (completed i s).R = s.R := by
    rintro rfl
    rfl
  refine ⟨completed i s, exec_eq_completed i s, rfl, rfl, rfl, rfl, rfl, rfl, rfl, rfl, rfl, rfl, rfl, keepsT, keepsR, ?_⟩
  intro addr notStatus outsideT outsideR
  refine windowByte_congr rfl rfl rfl (fun low high => keepsT ?_) (fun low high => keepsR ?_)
    (fun status => absurd status notStatus)
  · intro mul
    have := outsideT mul
    omega
  · by_contra other
    have := outsideR other
    omega

/-- Settles O30: what a command writes is a function of A, B and T, R before it reaching only R after MUL. -/
theorem resultDependsOnOperandsOnly : Obligations.ResultDependsOnOperandsOnly := by
  intro i s₁ s₂ t₁ t₂ sameA sameB sameT exec₁ exec₂
  rw [exec_next_iff] at exec₁ exec₂
  subst exec₁ exec₂
  simp only [completed_T, completed_R, completed_STATUS, completeStatus_cb, completeStatus_pv, sameA, sameB, sameT]
  exact ⟨trivial, fun other => finalR_of_ne_mul other _ _ _ _ _, trivial, trivial⟩

end Sys2Proof.Machine
end

section
/-! The invariant `Legal` of the whole machine (spec/10_state.md R26; spec/60_exceptions.md R184): one lemma for each operation a
step is made of, then the step. -/

namespace Sys2Proof.Machine

/-- `Legal` speaks of STATUS, CMD, OPL and R, and of the countdown only while the block is idle. -/
theorem Legal.congr {s t : State} (legal : Legal s) (sameSTATUS : t.STATUS = s.STATUS) (sameCMD : t.CMD = s.CMD)
    (sameOPL : t.OPL = s.OPL) (sameR : t.R = s.R) (sameWait : s.STATUS.busy = false → t.wait = s.wait) : Legal t where
  notBusyDone := by simpa only [sameSTATUS] using legal.notBusyDone
  busyNotIll := by simpa only [sameSTATUS] using legal.busyNotIll
  latchValid := by simpa only [sameSTATUS, sameOPL] using legal.latchValid
  commandKept := by simpa only [sameSTATUS, sameCMD, sameOPL] using legal.commandKept
  idleNoWait := by
    rw [sameSTATUS]
    exact fun idle => (sameWait idle).trans (legal.idleNoWait idle)
  illAlone := by simpa only [sameSTATUS] using legal.illAlone
  illCommand := by simpa only [sameSTATUS, sameCMD] using legal.illCommand
  flagsFromComplete := by simpa only [sameSTATUS] using legal.flagsFromComplete
  doneCommand := by simpa only [sameSTATUS, sameCMD] using legal.doneCommand
  clearedCB := by simpa only [sameSTATUS, sameCMD] using legal.clearedCB
  clearedPV := by simpa only [sameSTATUS, sameCMD] using legal.clearedPV
  resultCanonical := by simpa only [sameSTATUS, sameCMD, sameR] using legal.resultCanonical

/-- Reset clears STATUS and the countdown, and no clause of `Legal` asks more of a block without a flag. -/
theorem resetWith_legal (d : ResetData) (n : Nat) (ops : List HostOp) (bs : List Byte) :
    Legal (State.resetWith d n ops bs) where
  notBusyDone busy := nomatch busy
  busyNotIll busy := nomatch busy
  latchValid busy := nomatch busy
  commandKept busy := nomatch busy
  idleNoWait _ := rfl
  illAlone ill := nomatch ill
  illCommand ill := nomatch ill
  flagsFromComplete _ flags := by simp at flags
  doneCommand done := nomatch done
  clearedCB _ done := nomatch done
  clearedPV _ done := nomatch done
  resultCanonical _ done := nomatch done

/-- Settles O50: `State.reset` is one of the states a Reset leaves. -/
theorem resetIsLegal : Obligations.ResetIsLegal :=
  ⟨resetWith_legal, resetWith_legal resetDataNamed 0 [] []⟩

theorem hostReset_legal (s : State) : Legal (hostReset s) := resetWith_legal _ _ _ _

/-- A byte heard changes nothing `Legal` speaks of (spec/20_memory.md R56). -/
theorem hear_legal {s : State} (legal : Legal s) (b : Byte) : Legal (hear s b) :=
  legal.congr rfl rfl rfl rfl fun _ => rfl

/-- Acceptance of a valid command loads CMD and OPL with the same byte and takes DONE and ILL back (spec/30_encoding.md R76). -/
theorem acceptValid_legal (s : State) {b : Byte} {i : Instr} (valid : decode b = .ok i) : Legal (acceptValid s b) where
  notBusyDone _ := rfl
  busyNotIll _ := rfl
  latchValid _ := by
    rw [acceptValid_OPL, valid]
    rfl
  commandKept _ := rfl
  idleNoWait idle := nomatch idle
  illAlone ill := nomatch ill
  illCommand ill := nomatch ill
  flagsFromComplete idle := nomatch idle
  doneCommand done := nomatch done
  clearedCB _ done := nomatch done
  clearedPV _ done := nomatch done
  resultCanonical _ done := nomatch done

/-- Acceptance of an invalid command leaves ILL alone set and the offending byte in CMD (spec/30_encoding.md R77). -/
theorem acceptInvalid_legal {s : State} {b : Byte} {e : DecodeError} (legal : Legal s) (idle : s.STATUS.busy = false)
    (invalid : decode b = .error e) : Legal (acceptInvalid s b) where
  notBusyDone _ := rfl
  busyNotIll busy := by simp [idle] at busy
  latchValid busy := by simp [idle] at busy
  commandKept busy := by simp [idle] at busy
  idleNoWait _ := legal.idleNoWait idle
  illAlone _ := ⟨rfl, rfl, rfl⟩
  illCommand _ := by
    rw [acceptInvalid_CMD, invalid]
    rfl
  flagsFromComplete _ flags := by simp at flags
  doneCommand done := nomatch done
  clearedCB _ done := nomatch done
  clearedPV _ done := nomatch done
  resultCanonical _ done := nomatch done

theorem issue_legal {s : State} (legal : Legal s) (idle : s.STATUS.busy = false) (b : Byte) : Legal (issue s b) := by
  rcases issue_cases s b with ⟨⟨i, valid⟩, accepted⟩ | ⟨⟨e, invalid⟩, accepted⟩ <;> rw [accepted]
  · exact acceptValid_legal s valid
  · exact acceptInvalid_legal legal idle invalid

theorem hostWrite_legal {s : State} (legal : Legal s) (addr b : Byte) : Legal (hostWrite s addr b) := by
  rcases hostWrite_cases s addr b with same | ⟨idle, ⟨k, -, written⟩ | ⟨k, -, written⟩ | ⟨k, -, written⟩ | ⟨-, issued⟩⟩
  · rwa [same]
  on_goal 4 =>
    rw [issued]
    exact issue_legal legal idle b
  all_goals
    rw [written]
    exact legal.congr rfl rfl rfl rfl fun _ => rfl

theorem hostTurn_legal {s : State} (legal : Legal s) : Legal (hostTurn s) := by
  rcases hostTurn_cases s with
    ⟨-, same⟩ | ⟨op, rest, -, ⟨b, ops, heard⟩ | ⟨addr, b, -, written⟩ | reset | ⟨b, resetHeard⟩⟩
  · rwa [same]
  · rw [heard]
    exact legal.congr rfl rfl rfl rfl fun _ => rfl
  · rw [written]
    have restLegal : Legal { s with script := rest } := legal.congr rfl rfl rfl rfl fun _ => rfl
    exact hostWrite_legal restLegal addr b
  · rw [reset]
    exact hostReset_legal _
  · rw [resetHeard]
    exact hear_legal (hostReset_legal _) b

/-- `Complete` of the command in CMD: the flags and R are that command's own (spec/30_encoding.md R78). -/
theorem completed_legal {s : State} {i : Instr} (notIll : s.STATUS.ill = false) (noWait : s.wait = 0)
    (command : decode s.CMD = .ok i) : Legal (completed i s) where
  notBusyDone busy := nomatch busy
  busyNotIll busy := nomatch busy
  latchValid busy := nomatch busy
  commandKept busy := nomatch busy
  idleNoWait _ := noWait
  illAlone ill := by simp [notIll] at ill
  illCommand ill := by simp [notIll] at ill
  flagsFromComplete _ _ := rfl
  doneCommand _ := by
    rw [completed_CMD, command]
    rfl
  clearedCB j _ decoded clears := by
    cases command.symm.trans decoded
    exact finalCB_of_clearsCB clears _ _
  clearedPV j _ decoded clears := by
    cases command.symm.trans decoded
    exact finalPV_of_clearsPV clears _ _
  resultCanonical j _ decoded canonical := by
    cases command.symm.trans decoded
    exact finalR_lt canonical _ _ _ _

/-- Settles O49, over the three things a step can be: the turn of an idle block's host, a host step of latency, a `Complete`, where
the invariant itself says that CMD still holds the latched command. -/
theorem stepKeepsLegal : Obligations.StepKeepsLegal := by
  intro s t legal stepped
  rcases step_cases stepped with ⟨-, rfl⟩ | ⟨n, busy, -, rfl⟩ | ⟨i, busy, noWait, decoded, executed⟩
  · exact hostTurn_legal legal
  · have countedDown : Legal { s with wait := n } :=
      legal.congr rfl rfl rfl rfl fun idle => Bool.noConfusion (busy.symm.trans idle)
    exact hostTurn_legal countedDown
  · rw [exec_next_iff] at executed
    rw [executed]
    exact completed_legal (legal.busyNotIll busy) noWait (by rw [legal.commandKept busy, decoded])

end Sys2Proof.Machine
end

section
/-! The STATUS byte, bit by bit, and its values while the block is idle (spec/10_state.md R26, spec/60_exceptions.md R184). -/

namespace Sys2Proof.Machine

/-- Settles O28: each bit of the concatenation is found by its offset from the low end. -/
theorem statusByteLayout : Obligations.StatusByteLayout := by
  intro f
  simp only [statusByte, BitVec.getLsbD_append, BitVec.getLsbD_ofBool]
  simp

/-- The idle flags of a legal block: ILL alone, none, or those of a `Complete` (spec/60_exceptions.md R184 (c)). -/
theorem Legal.idle_status {s : State} (legal : Legal s) (idle : s.STATUS.busy = false) :
    s.STATUS = { Status.zero with ill := true } ∨ s.STATUS = Status.zero ∨
      ∃ cb pv, s.STATUS = completeStatus Status.zero cb pv := by
  have illAlone := legal.illAlone
  have flagsFromComplete := legal.flagsFromComplete idle
  generalize s.STATUS = f at idle illAlone flagsFromComplete ⊢
  obtain ⟨busy, done, cb, pv, ill⟩ := f
  cases idle
  cases ill
  case true =>
    obtain ⟨rfl, rfl, rfl⟩ := illAlone rfl
    exact .inl rfl
  case false =>
    cases done
    case true => exact .inr (.inr ⟨cb, pv, rfl⟩)
    case false =>
      have noFlag : cb = false ∧ pv = false := by simpa using flagsFromComplete
      obtain ⟨rfl, rfl⟩ := noFlag
      exact .inr (.inl rfl)

/-- Settles O52: one STATUS byte for ILL, one for no flag, four for a `Complete`. -/
theorem idleStatusValues : Obligations.IdleStatusValues := by
  intro s legal idle
  have read : hostRead s statusAddr = statusByte s.STATUS := hostRead_idle s statusAddr idle
  rw [read]
  rcases legal.idle_status idle with ill | noFlag | ⟨cb, pv, complete⟩
  · rw [ill]
    decide
  · rw [noFlag]
    decide
  · rw [complete]
    cases cb <;> cases pv <;> decide

end Sys2Proof.Machine
end

section
/-! The window map as a function of the address, and what it makes of reads and writes (spec/20_memory.md R51, R52, R56 to
R61). -/

namespace Sys2Proof.Machine

/-- The addresses of a region (spec/20_memory.md R51). -/
def Region.Covers : Region → Nat → Prop
  | .a k, n => n = k ∧ k < 32
  | .b k, n => n = 0x20 + k ∧ k < 32
  | .t k, n => n = 0x40 + k ∧ k < 64
  | .r k, n => n = 0x80 + k ∧ k < 32
  | .p k, n => n = 0xA0 + k ∧ k < 32
  | .rc k, n => n = 0xC0 + k ∧ k < 32
  | .cmd, n => n = 0xE0
  | .status, n => n = 0xE1
  | .reserved, n => 0xE2 ≤ n

theorem region_covers (addr : Byte) : (region addr).Covers addr.toNat := by
  have spec := region_spec addr
  cases named : region addr <;> rw [named] at spec <;> exact spec

/-- The map is a partition: the region that covers an address is the one the map names. -/
theorem region_eq_iff {addr : Byte} {g : Region} : region addr = g ↔ g.Covers addr.toNat := by
  refine ⟨fun named => named ▸ region_covers addr, fun covers => ?_⟩
  simp only [region]
  cases g <;> simp only [Region.Covers] at covers
  all_goals grind

/-! ### Reads -/

theorem windowByte_a (s : State) {addr : Byte} {k : Nat} (inA : addr.toNat = k ∧ k < 32) :
    windowByte s addr = byteOf s.A k := by
  rw [windowByte, (region_eq_iff (g := .a k)).mpr inA]

theorem windowByte_b (s : State) {addr : Byte} {k : Nat} (inB : addr.toNat = 0x20 + k ∧ k < 32) :
    windowByte s addr = byteOf s.B k := by
  rw [windowByte, (region_eq_iff (g := .b k)).mpr inB]

theorem windowByte_t (s : State) {addr : Byte} {k : Nat} (inT : addr.toNat = 0x40 + k ∧ k < 64) :
    windowByte s addr = byteOf s.T k := by
  rw [windowByte, (region_eq_iff (g := .t k)).mpr inT]

theorem windowByte_r (s : State) {addr : Byte} {k : Nat} (inR : addr.toNat = 0x80 + k ∧ k < 32) :
    windowByte s addr = byteOf s.R k := by
  rw [windowByte, (region_eq_iff (g := .r k)).mpr inR]

theorem windowByte_p (s : State) {addr : Byte} {k : Nat} (inP : addr.toNat = 0xA0 + k ∧ k < 32) :
    windowByte s addr = byteOf modulus k := by
  rw [windowByte, (region_eq_iff (g := .p k)).mpr inP]

theorem windowByte_rc (s : State) {addr : Byte} {k : Nat} (inRC : addr.toNat = 0xC0 + k ∧ k < 32) :
    windowByte s addr = byteOf reducerConst k := by
  rw [windowByte, (region_eq_iff (g := .rc k)).mpr inRC]

theorem windowByte_reserved (s : State) {addr : Byte} (reserved : 0xE2 ≤ addr.toNat) : windowByte s addr = 0x00 := by
  rw [windowByte, (region_eq_iff (g := .reserved)).mpr reserved]

/-- The turn of `RD addr` (spec/30_encoding.md R79). -/
theorem hostTurn_rd {s : State} {addr : Byte} {rest : List HostOp} (head : s.script = .rd addr :: rest) :
    hostTurn s = hear { s with script := rest } (hostRead { s with script := rest } addr) := by
  simp only [hostTurn, head, hostDo]

/-- Settles O12: one equation of the window map for each range. -/
theorem idleReads : Obligations.IdleReads := by
  intro s addr idle
  rw [hostRead_idle s addr idle]
  refine ⟨fun high => windowByte_a s ⟨rfl, high⟩, fun low high => windowByte_b s (by omega),
    fun low high => windowByte_t s (by omega), fun low high => windowByte_r s (by omega),
    fun low high => windowByte_p s (by omega), fun low high => windowByte_rc s (by omega),
    ?_, ?_, windowByte_reserved s, ?_⟩
  · rintro rfl
    rfl
  · rintro rfl
    rfl
  · intro rest head
    rw [hostTurn_rd head]
    exact ⟨rfl, rfl, rfl, rfl, rfl, rfl, rfl, rfl⟩

/-- STATUS as a host reads it while BUSY = 1 and ILL = 0: only bits 2 and 3 are free (spec/20_memory.md R61 (c)). -/
theorem statusByteBusy_eq {f : Status} (busy : f.busy = true) (notDone : f.done = false) (notIll : f.ill = false)
    (free : Byte) : statusByteBusy f free = 0x01 ||| (free &&& 0x0C) := by
  obtain ⟨bit0, bit1, bit2, bit3, bit4, bit5, bit6, bit7⟩ :=
    statusByteLayout { f with cb := free.getLsbD 2, pv := free.getLsbD 3 }
  rw [statusByteBusy]
  apply BitVec.eq_of_getLsbD_eq
  intro i inByte
  rw [BitVec.getLsbD_or, BitVec.getLsbD_and]
  interval_cases i
  · exact bit0.trans (by simp [busy])
  · exact bit1.trans (by simp [notDone])
  · exact bit2.trans (by simp)
  · exact bit3.trans (by simp)
  · exact bit4.trans (by simp [notIll])
  · exact bit5.trans (by simp)
  · exact bit6.trans (by simp)
  · exact bit7.trans (by simp)

/-- T's bytes while an operation is in flight: free as MUL's destination (spec/20_memory.md R61 (e)). -/
theorem windowByteBusy_t (s : State) {addr : Byte} (low : 0x40 ≤ addr.toNat) (high : addr.toNat < 0x80) (free : Byte) :
    windowByteBusy s addr free = if s.OPL = encode .mul then free else windowByte s addr := by
  have named : region addr = .t (addr.toNat - 0x40) := region_eq_iff.mpr ⟨by omega, by omega⟩
  rw [windowByteBusy, named]

/-- R's bytes while an operation is in flight: free as the destination of every command but MUL (spec/20_memory.md R61
(d)). -/
theorem windowByteBusy_r (s : State) {addr : Byte} (low : 0x80 ≤ addr.toNat) (high : addr.toNat < 0xA0) (free : Byte) :
    windowByteBusy s addr free = if s.OPL = encode .mul then windowByte s addr else free := by
  have named : region addr = .r (addr.toNat - 0x80) := region_eq_iff.mpr ⟨by omega, by omega⟩
  rw [windowByteBusy, named]

/-- Outside T, R and STATUS a read does not see whether an operation is in flight (spec/20_memory.md R61 (b)). -/
theorem windowByteBusy_eq_windowByte (s : State) {addr : Byte}
    (outside : addr.toNat < 0x40 ∨ 0xA0 ≤ addr.toNat ∧ addr ≠ statusAddr) (free : Byte) :
    windowByteBusy s addr free = windowByte s addr := by
  have covers := region_covers addr
  unfold windowByteBusy
  cases named : region addr <;> rw [named] at covers <;> simp only [Region.Covers] at covers
  case t k => omega
  case r k => omega
  case status =>
    have isStatus : addr = statusAddr := BitVec.eq_of_toNat_eq covers
    simp [isStatus, statusAddr] at outside

/-- Settles O11: by the register the address lies in, and the latch. -/
theorem busyReads : Obligations.BusyReads := by
  intro s addr busy
  rw [hostRead_busy s addr busy]
  refine ⟨fun outside => windowByteBusy_eq_windowByte s outside _, ?_, ?_, ?_, ?_, ?_⟩
  · intro low high mul
    rw [windowByteBusy_t s low high, if_pos mul]
  · intro low high other
    rw [windowByteBusy_t s low high, if_neg other]
  · intro low high mul
    rw [windowByteBusy_r s low high, if_pos mul]
  · intro low high other
    rw [windowByteBusy_r s low high, if_neg other]
  · rintro legal rfl
    exact statusByteBusy_eq busy (legal.notBusyDone busy) (legal.busyNotIll busy) _

/-! ### The registers as sums of their window bytes -/

theorem mod_eq_sum_bytes (m n : Nat) :
    m % 2 ^ (8 * n) = ∑ k ∈ Finset.range n, 2 ^ (8 * k) * (m / 2 ^ (8 * k) % 256) := by
  induction n with
  | zero => simp [Nat.mod_one]
  | succ n ih => rw [Finset.sum_range_succ, ← ih, Nat.mul_succ, Nat.pow_add, Nat.mod_mul]

theorem toNat_eq_sum_byteOf {w n : Nat} (width : w = 8 * n) (x : BitVec w) :
    x.toNat = ∑ k ∈ Finset.range n, 2 ^ (8 * k) * (byteOf x k).toNat := by
  subst width
  simp only [byteOf_toNat, ← mod_eq_sum_bytes, Nat.mod_eq_of_lt x.isLt]

/-- A register whose bytes stand at base, base + 1, ... is the weighted sum of those window bytes. -/
theorem toNat_eq_sum_windowByte (s : State) {w n base : Nat} (width : w = 8 * n) (x : BitVec w)
    (shown : ∀ k < n, windowByte s (addrAt base k) = byteOf x k) :
    x.toNat = ∑ k ∈ Finset.range n, 2 ^ (8 * k) * (windowByte s (addrAt base k)).toNat := by
  rw [toNat_eq_sum_byteOf width x]
  refine Finset.sum_congr rfl fun k inRange => ?_
  rw [shown k (Finset.mem_range.mp inRange)]

theorem addrAt_toNat {base k : Nat} (inWindow : base + k < 256) : (addrAt base k).toNat = base + k := by
  rw [addrAt, BitVec.toNat_ofNat, Nat.mod_eq_of_lt inWindow]

/-- Settles O15: each register's bytes stand in the window from its base on. -/
theorem registersAreTheirWindowBytes : Obligations.RegistersAreTheirWindowBytes := by
  intro s
  refine ⟨toNat_eq_sum_windowByte s rfl s.A fun k inA => windowByte_a s ⟨?_, inA⟩,
    toNat_eq_sum_windowByte s rfl s.B fun k inB => windowByte_b s ⟨addrAt_toNat (by omega), inB⟩,
    toNat_eq_sum_windowByte s rfl s.T fun k inT => windowByte_t s ⟨addrAt_toNat (by omega), inT⟩,
    toNat_eq_sum_windowByte s rfl s.R fun k inR => windowByte_r s ⟨addrAt_toNat (by omega), inR⟩,
    toNat_eq_sum_windowByte s rfl modulus fun k inP => windowByte_p s ⟨addrAt_toNat (by omega), inP⟩,
    toNat_eq_sum_windowByte s rfl reducerConst fun k inRC => windowByte_rc s ⟨addrAt_toNat (by omega), inRC⟩⟩
  rw [addrAt_toNat (by omega), Nat.zero_add]

/-! ### Writes -/

theorem hostWrite_of_busy {s : State} (busy : s.STATUS.busy = true) (addr b : Byte) : hostWrite s addr b = s :=
  if_pos busy

/-- Settles O10, at every address alike. -/
theorem busyDropsEveryWrite : Obligations.BusyDropsEveryWrite :=
  fun _ addr b busy => hostWrite_of_busy busy addr b

section
variable {s : State} (idle : s.STATUS.busy = false) {addr : Byte} {k : Nat} (b : Byte)
include idle

theorem hostWrite_a (inA : addr.toNat = k ∧ k < 32) : hostWrite s addr b = { s with A := setByte s.A k b } := by
  simp only [hostWrite, idle, (region_eq_iff (g := .a k)).mpr inA, Bool.false_eq_true, if_false]

theorem hostWrite_b (inB : addr.toNat = 0x20 + k ∧ k < 32) : hostWrite s addr b = { s with B := setByte s.B k b } := by
  simp only [hostWrite, idle, (region_eq_iff (g := .b k)).mpr inB, Bool.false_eq_true, if_false]

theorem hostWrite_t (inT : addr.toNat = 0x40 + k ∧ k < 64) : hostWrite s addr b = { s with T := setByte s.T k b } := by
  simp only [hostWrite, idle, (region_eq_iff (g := .t k)).mpr inT, Bool.false_eq_true, if_false]

theorem hostWrite_cmd : hostWrite s cmdAddr b = issue s b := by
  have named : region cmdAddr = .cmd := by decide
  simp only [hostWrite, idle, named, Bool.false_eq_true, if_false]

end

/-- R, P, RC, STATUS and the reserved range take no write (spec/20_memory.md R57, R59). -/
theorem hostWrite_readOnly (s : State) {addr : Byte} (above : 0x80 ≤ addr.toNat) (notCmd : addr ≠ cmdAddr) (b : Byte) :
    hostWrite s addr b = s := by
  have covers := region_covers addr
  rcases hostWrite_cases s addr b with
    same | ⟨-, ⟨k, named, -⟩ | ⟨k, named, -⟩ | ⟨k, named, -⟩ | ⟨named, -⟩⟩
  · exact same
  all_goals
    rw [named] at covers
    simp only [Region.Covers] at covers
  on_goal 4 => exact absurd (BitVec.eq_of_toNat_eq covers) notCmd
  all_goals omega

/-- Settles O13: one equation of `hostWrite` for each range. -/
theorem hostWrites : Obligations.HostWrites := by
  intro s addr b
  refine ⟨fun busy => hostWrite_of_busy busy addr b, fun idle =>
    ⟨fun high => hostWrite_a idle b ⟨rfl, high⟩, fun low high => hostWrite_b idle b (by omega),
      fun low high => hostWrite_t idle b (by omega), ?_, fun above notCmd => hostWrite_readOnly s above notCmd b⟩⟩
  rintro rfl
  exact hostWrite_cmd idle b

theorem byteOf_setByte {w : Nat} (x : BitVec w) (j k : Nat) (b : Byte) (inside : 8 * j + 8 ≤ w) :
    byteOf (setByte x k b) j = if j = k then b else byteOf x j := by
  split
  · next same =>
    subst same
    exact byteOf_setByte_same x j b inside
  · next other => exact byteOf_setByte_other x j k b inside other

section
variable (s : State) (k : Nat) (b other : Byte)

theorem windowByte_setByte_A :
    windowByte { s with A := setByte s.A k b } other = if region other = .a k then b else windowByte s other := by
  have covers := region_covers other
  unfold windowByte
  cases named : region other <;> rw [named] at covers
  case a j => simp only [byteOf_setByte s.A j k b (by have := covers.2; omega), Region.a.injEq]
  all_goals rfl

theorem windowByte_setByte_B :
    windowByte { s with B := setByte s.B k b } other = if region other = .b k then b else windowByte s other := by
  have covers := region_covers other
  unfold windowByte
  cases named : region other <;> rw [named] at covers
  case b j => simp only [byteOf_setByte s.B j k b (by have := covers.2; omega), Region.b.injEq]
  all_goals rfl

theorem windowByte_setByte_T :
    windowByte { s with T := setByte s.T k b } other = if region other = .t k then b else windowByte s other := by
  have covers := region_covers other
  unfold windowByte
  cases named : region other <;> rw [named] at covers
  case t j => simp only [byteOf_setByte s.T j k b (by have := covers.2; omega), Region.t.injEq]
  all_goals rfl

end

/-- Outside the reserved range a region is one address. -/
theorem region_eq_region_iff {addr other : Byte} (notReserved : addr.toNat < 0xE2) :
    region other = region addr ↔ other = addr := by
  refine ⟨fun same => BitVec.eq_of_toNat_eq ?_, fun same => same ▸ rfl⟩
  have covers := region_covers other
  have coversAddr := region_covers addr
  rw [same] at covers
  cases named : region addr <;> rw [named] at covers coversAddr <;> simp only [Region.Covers] at covers coversAddr <;> omega

/-- A write below 0x80 is the write of one byte of A, B or T. -/
theorem windowByte_hostWrite {s : State} (idle : s.STATUS.busy = false) {addr : Byte} (low : addr.toNat < 0x80)
    (other b : Byte) : windowByte (hostWrite s addr b) other = if other = addr then b else windowByte s other := by
  simp only [← region_eq_region_iff (show addr.toNat < 0xE2 by omega)]
  have covers := region_covers addr
  cases named : region addr <;> rw [named] at covers
  case a k => rw [hostWrite_a idle b covers, windowByte_setByte_A]
  case b k => rw [hostWrite_b idle b covers, windowByte_setByte_B]
  case t k => rw [hostWrite_t idle b covers, windowByte_setByte_T]
  all_goals
    simp only [Region.Covers] at covers
    omega

/-- Settles O14: below 0x80 one byte changes, above it none. -/
theorem windowReadAfterWrite : Obligations.WindowReadAfterWrite := by
  intro s addr other b idle
  refine ⟨fun low => windowByte_hostWrite idle low other b, fun above notCmd => ?_⟩
  rw [hostWrite_readOnly s above notCmd b]

end Sys2Proof.Machine
end

section
/-! A command from its acceptance to its `Complete`: the block holds still for as long as the latency runs, whatever the host does
short of a Reset (spec/20_memory.md R61, R62, R64; spec/30_encoding.md R76, R78, R80). -/

namespace Sys2Proof.Machine

theorem SameBlock.refl (s : State) : SameBlock s s := ⟨rfl, rfl, rfl, rfl, rfl, rfl, rfl, rfl⟩

theorem SameBlock.trans {s t u : State} (first : SameBlock s t) (second : SameBlock t u) : SameBlock s u := by
  obtain ⟨a, b, t, r, cmd, status, opl, wait⟩ := first
  obtain ⟨a', b', t', r', cmd', status', opl', wait'⟩ := second
  exact ⟨a'.trans a, b'.trans b, t'.trans t, r'.trans r, cmd'.trans cmd, status'.trans status, opl'.trans opl,
    wait'.trans wait⟩

theorem hostWrite_valid {s : State} (idle : s.STATUS.busy = false) (i : Instr) :
    hostWrite s cmdAddr (encode i) = acceptValid s (encode i) := by
  rw [hostWrite_cmd idle, issue, decode_encode_ok]

/-- With no latency left the step is `Complete` (spec/30_encoding.md R78). -/
theorem step_of_noLatency {s : State} {i : Instr} (busy : s.STATUS.busy = true) (noWait : s.wait = 0)
    (latched : s.OPL = encode i) : step s = exec i s := by
  rw [step, schedule, busy, noWait]
  dsimp only
  rw [completeStep, fetch, latched, decode_encode_ok]

/-- Settles O6: the write is an acceptance, which puts the command into the latch that `Complete` decodes. -/
theorem acceptedCommandRunsItsInstruction : Obligations.AcceptedCommandRunsItsInstruction := by
  intro s i idle
  rw [hostWrite_valid idle i]
  refine ⟨rfl, rfl, fun noWait => step_of_noLatency rfl noWait rfl, fun u status latch noWait => ?_⟩
  exact step_of_noLatency (congrArg Status.busy status) noWait latch

theorem hostRead_statusAddr_bit0 (s : State) : (hostRead s statusAddr).getLsbD 0 = s.STATUS.busy := by
  cases busy : s.STATUS.busy
  · rw [hostRead_idle s _ busy]
    exact (statusByteLayout s.STATUS).1.trans busy
  · rw [hostRead_busy s _ busy]
    exact (statusByteLayout _).1.trans busy

/-- The turn of `WR addr, b` (spec/30_encoding.md R79). -/
theorem hostTurn_wr {s : State} {addr b : Byte} {rest : List HostOp} (head : s.script = .wr addr b :: rest) :
    hostTurn s = hostWrite { s with script := rest } addr b := by
  simp only [hostTurn, head, hostDo]

/-- One poll of WAIT: it stays at the head of the script while BUSY = 1 (spec/30_encoding.md R80). -/
theorem hostTurn_poll {s : State} {rest : List HostOp} (head : s.script = .poll :: rest) :
    hostTurn s = { hear s (hostRead s statusAddr) with script := if s.STATUS.busy then .poll :: rest else rest } := by
  have bit0 : (hostRead { s with script := rest } statusAddr).getLsbD 0 = s.STATUS.busy := hostRead_statusAddr_bit0 _
  simp only [hostTurn, head, hostDo, bit0]
  split <;> rfl

/-- A turn that does not reset leaves a busy block as it is, and puts no Reset into the script (spec/20_memory.md R61, R62). -/
theorem hostTurn_busy {s : State} (busy : s.STATUS.busy = true) (noReset : ∀ op ∈ s.script, isReset op = false) :
    SameBlock s (hostTurn s) ∧ ∀ op ∈ (hostTurn s).script, isReset op = false := by
  cases script : s.script with
  | nil =>
    have same : hostTurn s = s := by rw [hostTurn, script]
    rw [same]
    exact ⟨.refl s, noReset⟩
  | cons op rest =>
    rw [script, List.forall_mem_cons] at noReset
    obtain ⟨notReset, noReset⟩ := noReset
    cases op with
    | rd addr =>
      rw [hostTurn_rd script]
      exact ⟨.refl s, noReset⟩
    | wr addr b =>
      have dropped : hostTurn s = { s with script := rest } :=
        (hostTurn_wr script).trans (hostWrite_of_busy (s := { s with script := rest }) busy addr b)
      rw [dropped]
      exact ⟨.refl s, noReset⟩
    | rdTo src dst =>
      simp only [hostTurn, script, hostDo]
      exact ⟨.refl s, List.forall_mem_cons.mpr ⟨rfl, noReset⟩⟩
    | poll =>
      rw [hostTurn_poll script, busy]
      exact ⟨.refl s, List.forall_mem_cons.mpr ⟨rfl, noReset⟩⟩
    | reset => cases notReset
    | resetRd addr => cases notReset
    | resetWr addr b => cases notReset

/-- The latency runs out with the block as it was, for every kind of script whose turns leave a busy block alone and keep the
script of that kind. -/
theorem run_latency (Kind : List HostOp → Prop)
    (turn : ∀ s : State, s.STATUS.busy = true → Kind s.script → SameBlock s (hostTurn s) ∧ Kind (hostTurn s).script)
    {s : State} (busy : s.STATUS.busy = true) (kind : Kind s.script) :
    ∃ u, run s.wait s = .next u ∧ SameBlock { s with wait := 0 } u ∧ Kind u.script := by
  induction left : s.wait generalizing s with
  | zero => exact ⟨s, rfl, ⟨rfl, rfl, rfl, rfl, rfl, rfl, rfl, left⟩, kind⟩
  | succ n ih =>
    obtain ⟨held, kept⟩ := turn { s with wait := n } busy kind
    obtain ⟨a, b, t, r, cmd, status, opl, wait⟩ := held
    have held₀ : SameBlock { s with wait := 0 } { hostTurn { s with wait := n } with wait := 0 } :=
      ⟨a, b, t, r, cmd, status, opl, rfl⟩
    obtain ⟨u, ran, heldU, kindU⟩ := ih ((congrArg Status.busy status).trans busy) kept wait
    rw [run_succ_next (step_of_latency busy left)]
    exact ⟨u, ran, held₀.trans heldU, kindU⟩

/-- Settles O54: the latency runs out over a script without Reset, and the latch still holds the command. -/
theorem operandsHeldUntilComplete : Obligations.OperandsHeldUntilComplete := by
  intro s i idle noReset
  rw [hostWrite_valid idle i]
  obtain ⟨u, ran, ⟨a, b, t, r, cmd, status, opl, wait⟩, -⟩ :=
    run_latency (fun ops => ∀ op ∈ ops, isReset op = false) (fun _ => hostTurn_busy)
      (s := acceptValid s (encode i)) rfl noReset
  have busy : u.STATUS.busy = true := congrArg Status.busy status
  refine ⟨u, ran, ?_, busy, wait, opl, cmd, a, b, t, r⟩
  rw [run_add ran, run_one]
  exact step_of_noLatency busy wait opl

/-- WAIT at the head of the script leaves a busy block alone and stays where it is (spec/30_encoding.md R80). -/
theorem hostTurn_busy_poll (rest : List HostOp) (s : State) (busy : s.STATUS.busy = true)
    (head : s.script = .poll :: rest) : SameBlock s (hostTurn s) ∧ (hostTurn s).script = .poll :: rest := by
  rw [hostTurn_poll head, busy]
  exact ⟨.refl s, rfl⟩

/-- `RUN m` of an idle host is the acceptance of the command (spec/30_encoding.md R76, R80). -/
theorem step_run {s : State} {i : Instr} {rest : List HostOp} (idle : s.STATUS.busy = false)
    (head : s.script = .wr cmdAddr (encode i) :: rest) :
    step s = .next (acceptValid { s with script := rest } (encode i)) := by
  rw [step_of_idle idle, hostTurn_wr head, hostWrite_valid (s := { s with script := rest }) idle]

/-- WAIT on an idle block is one read of STATUS (spec/30_encoding.md R80). -/
theorem step_idle_poll {s : State} {rest : List HostOp} (idle : s.STATUS.busy = false)
    (head : s.script = .poll :: rest) : step s = .next { hear s (hostRead s statusAddr) with script := rest } := by
  rw [step_of_idle idle, hostTurn_poll head, idle]
  rfl

/-- Settles O58: the write of the command, the latency under WAIT, the `Complete`, and the one poll that finds BUSY = 0. -/
theorem commandLineEndsWithItsResult : Obligations.CommandLineEndsWithItsResult := by
  intro s i rest idle script
  have accepted := step_run idle script
  obtain ⟨u, waited, ⟨a, b, t, r, cmd, status, opl, wait⟩, head⟩ :=
    run_latency (· = .poll :: rest) (hostTurn_busy_poll rest)
      (s := acceptValid { s with script := .poll :: rest } (encode i)) rfl rfl
  have complete : step u = .next (completed i u) := by
    rw [step_of_noLatency (congrArg Status.busy status) wait opl, exec_eq_completed]
  have polled := step_idle_poll (s := completed i u) rfl head
  have finish := (run_succ_next complete 1).trans ((run_one _).trans polled)
  have afterIssue := (run_add waited 2).trans finish
  refine ⟨_, _, completed i s, (run_succ_next accepted _).trans afterIssue, exec_eq_completed i s, rfl, ?_⟩
  simp [completed, completeStatus, a, b, t, r, cmd, status]

end Sys2Proof.Machine
end

section
/-! The decoder against the opcode map (spec/30_encoding.md R71 to R75), and the step that runs what it decodes (R78). -/

namespace Sys2Proof.Machine

/-- A byte is the byte of a command, or the decoder refuses it by name (spec/30_encoding.md R75). -/
theorem decode_cases (b : Byte) :
    (∃ i, b = encode i ∧ decode b = .ok i) ∨
      ((b.toNat = 0 ∨ 8 ≤ b.toNat) ∧ decode b = .error (.invalidCommand b)) := by
  have byte_eq {c : Byte} (value : b.toNat = c.toNat) : b = c := BitVec.eq_of_toNat_eq value
  unfold decode
  split
  case h_1 value => exact .inl ⟨.radd, byte_eq value, rfl⟩
  case h_2 value => exact .inl ⟨.rsub, byte_eq value, rfl⟩
  case h_3 value => exact .inl ⟨.madd, byte_eq value, rfl⟩
  case h_4 value => exact .inl ⟨.msub, byte_eq value, rfl⟩
  case h_5 value => exact .inl ⟨.mul, byte_eq value, rfl⟩
  case h_6 value => exact .inl ⟨.red, byte_eq value, rfl⟩
  case h_7 value => exact .inl ⟨.inv, byte_eq value, rfl⟩
  case h_8 => exact .inr ⟨by grind, rfl⟩

/-- The opcode map lies in 0x01 to 0x07 (spec/30_encoding.md R71). -/
theorem encode_bounds (i : Instr) : 1 ≤ (encode i).toNat ∧ (encode i).toNat ≤ 7 := by
  cases i <;> decide

/-- On the valid bytes the decoder is the inverse of the encoder. -/
theorem decode_eq_ok_iff {b : Byte} {i : Instr} : decode b = .ok i ↔ encode i = b := by
  refine ⟨fun decoded => ?_, fun encoded => encoded ▸ decode_encode_ok i⟩
  rcases decode_cases b with ⟨j, byte, valid⟩ | ⟨-, invalid⟩
  · cases valid.symm.trans decoded
    exact byte.symm
  · cases invalid.symm.trans decoded

theorem decode_eq_error_iff {b : Byte} : decode b = .error (.invalidCommand b) ↔ b.toNat = 0 ∨ 8 ≤ b.toNat := by
  rcases decode_cases b with ⟨i, rfl, valid⟩ | ⟨outside, invalid⟩
  · have := encode_bounds i
    exact ⟨fun invalid => (nomatch valid.symm.trans invalid), by omega⟩
  · exact ⟨fun _ => outside, fun _ => invalid⟩

theorem exists_decode_eq_ok_iff {b : Byte} : (∃ i, decode b = .ok i) ↔ 1 ≤ b.toNat ∧ b.toNat ≤ 7 := by
  rcases decode_cases b with ⟨i, rfl, valid⟩ | ⟨outside, invalid⟩
  · exact ⟨fun _ => encode_bounds i, fun _ => ⟨i, valid⟩⟩
  · exact ⟨fun ⟨_, valid⟩ => (nomatch invalid.symm.trans valid), by omega⟩

/-- Settles O1: the seven words are the encoder's, and each byte is one of them or refused. -/
theorem decodeIsTotalAndInverse : Obligations.DecodeIsTotalAndInverse :=
  ⟨⟨decode_encode_ok .radd, decode_encode_ok .rsub, decode_encode_ok .madd, decode_encode_ok .msub,
    decode_encode_ok .mul, decode_encode_ok .red, decode_encode_ok .inv⟩,
    fun _ => ⟨fun _ => decode_eq_ok_iff, exists_decode_eq_ok_iff, decode_eq_error_iff⟩⟩

/-- Settles O2: seven words of the encoder, and four bytes outside 0x01 to 0x07. -/
theorem opcodeMapWords : Obligations.OpcodeMapWords :=
  ⟨decode_encode_ok .radd, decode_encode_ok .rsub, decode_encode_ok .madd, decode_encode_ok .msub,
    decode_encode_ok .mul, decode_encode_ok .red, decode_encode_ok .inv,
    decode_eq_error_iff.mpr (by decide), decode_eq_error_iff.mpr (by decide), decode_eq_error_iff.mpr (by decide),
    decode_eq_error_iff.mpr (by decide)⟩

/-- Settles O3: a latch that decodes to a command holds that command's byte. -/
theorem stepRunsDecodedInstruction : Obligations.StepRunsDecodedInstruction :=
  fun _ _ busy noWait _ decoded => step_of_noLatency busy noWait (decode_eq_ok_iff.mp decoded).symm

/-- A byte stands for itself as a word of the opcode table (spec/30_encoding.md R70). -/
theorem tableByte_toNat (b : Byte) : tableByte 8 b.toNat = b := by
  rw [tableByte, Nat.mod_eq_of_lt b.isLt, BitVec.ofNat_toNat, BitVec.setWidth_eq]

/-- Settles O5: the placed word is in the latch, with no latency left. -/
theorem fetchWordIsRunNext : Obligations.FetchWordIsRunNext := by
  intro s i
  have placed : s.withFetchWord 8 (encode i).toNat = inFlight s (encode i) := by
    rw [State.withFetchWord, tableByte_toNat]
  rw [placed]
  exact ⟨step_of_noLatency rfl rfl rfl, rfl, rfl, rfl, rfl⟩

end Sys2Proof.Machine
end

section
/-! A legal block goes on: no step stops, and BUSY falls (spec/30_encoding.md R78, spec/60_exceptions.md R180,
spec/70_reset_and_hazards.md R214). -/

namespace Sys2Proof.Machine

/-- Settles O51: a step stops only on a latch that decodes to nothing, which no legal state holds. -/
theorem legalStepsNeverStop : Obligations.LegalStepsNeverStop := by
  intro s legal
  by_contra stops
  obtain ⟨busy, -, invalid⟩ := step_stops (not_exists.mp stops)
  exact Bool.noConfusion (invalid.symm.trans (legal.latchValid busy))

/-- With BUSY = 1 the host's turn resets the block or leaves the countdown alone (spec/20_memory.md R61). -/
theorem hostTurn_busy_or_wait {s : State} (busy : s.STATUS.busy = true) :
    (hostTurn s).STATUS.busy = false ∨ (hostTurn s).STATUS.busy = true ∧ (hostTurn s).wait = s.wait := by
  rcases hostTurn_cases s with
    ⟨-, same⟩ | ⟨op, rest, -, ⟨b, ops, heard⟩ | ⟨addr, b, -, written⟩ | reset | ⟨b, resetHeard⟩⟩
  · exact .inr (same.symm ▸ ⟨busy, rfl⟩)
  · exact .inr (heard.symm ▸ ⟨busy, rfl⟩)
  · rw [written, hostWrite_of_busy (s := { s with script := rest }) busy]
    exact .inr ⟨busy, rfl⟩
  · exact .inl (reset.symm ▸ rfl)
  · exact .inl (resetHeard.symm ▸ rfl)

/-- The latch of an operation in flight holds a command's byte (spec/10_state.md R31). -/
theorem Legal.latched {s : State} (legal : Legal s) (busy : s.STATUS.busy = true) : ∃ i, s.OPL = encode i := by
  have valid := legal.latchValid busy
  rcases decode_cases s.OPL with ⟨i, latched, -⟩ | ⟨-, invalid⟩
  · exact ⟨i, latched⟩
  · rw [invalid] at valid
    cases valid

/-- Settles O53, by induction on the latency left: a turn of the host resets the block or uses up one step of it, and with none
left the step is `Complete`. -/
theorem busyFallsInBoundedTime : Obligations.BusyFallsInBoundedTime := by
  intro s legal busy
  induction left : s.wait generalizing s with
  | zero =>
    obtain ⟨i, latched⟩ := legal.latched busy
    have complete : step s = .next (completed i s) := by
      rw [step_of_noLatency busy left latched, exec_eq_completed]
    exact ⟨1, completed i s, le_rfl, (run_one s).trans complete, rfl⟩
  | succ n ih =>
    have stepped := step_of_latency busy left
    rcases hostTurn_busy_or_wait (s := { s with wait := n }) busy with fell | ⟨stillBusy, wait⟩
    · exact ⟨1, _, by omega, (run_one s).trans stepped, fell⟩
    · obtain ⟨m, t, bound, ran, fell⟩ := ih _ (stepKeepsLegal s _ legal stepped) stillBusy wait
      exact ⟨m + 1, t, by omega, (run_succ_next stepped m).trans ran, fell⟩

end Sys2Proof.Machine
end

section
/-! The host's turn for each head of its script (spec/30_encoding.md R79, R80), issue as the host sees it (R76, R77), and the
STATUS byte a `Complete` leaves (R78). -/

namespace Sys2Proof.Machine

theorem issue_of_valid {b : Byte} {i : Instr} (valid : decode b = .ok i) (s : State) : issue s b = acceptValid s b := by
  rw [issue, valid]

theorem issue_of_invalid {b : Byte} {e : DecodeError} (invalid : decode b = .error e) (s : State) :
    issue s b = acceptInvalid s b := by
  rw [issue, invalid]

/-- A write does not look at what is left of the script. -/
theorem hostWrite_withScript (s : State) (addr b : Byte) (rest : List HostOp) :
    hostWrite { s with script := rest } addr b = { hostWrite s addr b with script := rest } := by
  unfold hostWrite
  cases s.STATUS.busy
  case true => rfl
  case false =>
    cases region addr
    case cmd =>
      rcases decode_cases b with ⟨i, -, valid⟩ | ⟨-, invalid⟩
      · simp only [issue_of_valid valid]
        rfl
      · simp only [issue_of_invalid invalid]
        rfl
    all_goals rfl

theorem hostWrite_script (s : State) (addr b : Byte) : (hostWrite s addr b).script = s.script :=
  (congrArg State.script (hostWrite_withScript s addr b s.script) :)

theorem hostTurn_nil {s : State} (empty : s.script = []) : hostTurn s = s := by
  rw [hostTurn, empty]

theorem hostTurn_cons {s : State} {op : HostOp} {rest : List HostOp} (head : s.script = op :: rest) :
    hostTurn s = hostDo { s with script := rest } op := by
  rw [hostTurn, head]

/-- Settles O7: one equation of the turn for each head of the script. -/
theorem hostTurnRunsTheScript : Obligations.HostTurnRunsTheScript :=
  fun s rest => ⟨hostTurn_nil, fun _ => hostTurn_rd,
    fun addr b head => (hostTurn_wr head).trans (hostWrite_withScript s addr b rest),
    fun _ _ => hostTurn_cons, hostTurn_poll, hostTurn_cons, fun _ _ => hostTurn_cons, fun _ => hostTurn_cons⟩

/-- Settles O8: the write is an acceptance, after which bits 2 and 3 of STATUS are those of the free byte. -/
theorem validCommandIsAccepted : Obligations.ValidCommandIsAccepted := by
  intro s b i idle valid
  rw [hostWrite_cmd idle, issue_of_valid valid]
  have read : hostRead (acceptValid s b) statusAddr =
      statusByteBusy (acceptValid s b).STATUS (Config.freeByte (acceptValid s b).draws) := hostRead_busy _ _ rfl
  obtain ⟨-, -, bit2, bit3, -⟩ := statusByteLayout
    { (acceptValid s b).STATUS with
      cb := (Config.freeByte (acceptValid s b).draws).getLsbD 2
      pv := (Config.freeByte (acceptValid s b).draws).getLsbD 3 }
  refine ⟨rfl, rfl, rfl, rfl, rfl, rfl, rfl, rfl, rfl, ?_, ?_⟩
  · rw [read]
    exact bit2
  · rw [read]
    exact bit3

/-- Only a Reset or a write to CMD takes ILL back while the block is idle (spec/30_encoding.md R77). -/
theorem hostTurn_keeps_ill {s : State} (ill : s.STATUS.ill = true) :
    (hostTurn s).STATUS.ill = true ∨
      ∃ op rest, s.script = op :: rest ∧ (isReset op = true ∨ ∃ b, op = .wr cmdAddr b) := by
  cases script : s.script with
  | nil =>
    rw [hostTurn_nil script]
    exact .inl ill
  | cons op rest =>
    cases op with
    | rd addr =>
      rw [hostTurn_rd script]
      exact .inl ill
    | wr addr b =>
      rw [hostTurn_wr script]
      rcases hostWrite_cases { s with script := rest } addr b with
        same | ⟨-, ⟨k, -, written⟩ | ⟨k, -, written⟩ | ⟨k, -, written⟩ | ⟨named, -⟩⟩
      on_goal 5 =>
        have isCmd : addr = cmdAddr := BitVec.eq_of_toNat_eq (region_eq_iff.mp named)
        exact .inr ⟨_, rest, rfl, .inr ⟨b, by rw [isCmd]⟩⟩
      · exact .inl (same.symm ▸ ill)
      all_goals exact .inl (written.symm ▸ ill)
    | rdTo src dst =>
      rw [hostTurn_cons script]
      exact .inl ill
    | poll =>
      rw [hostTurn_poll script]
      exact .inl ill
    | reset => exact .inr ⟨_, rest, rfl, .inl rfl⟩
    | resetRd addr => exact .inr ⟨_, rest, rfl, .inl rfl⟩
    | resetWr addr b => exact .inr ⟨_, rest, rfl, .inl rfl⟩

/-- Settles O9: the refusal writes CMD and STATUS and starts nothing; ILL then outlasts every other turn of the host. -/
theorem invalidCommandSetsIll : Obligations.InvalidCommandSetsIll := by
  refine ⟨fun s b e idle invalid => ?_, fun s t idle ill stepped => ?_⟩
  · rw [hostWrite_cmd idle, issue_of_invalid invalid]
    have status : (acceptInvalid s b).STATUS = { Status.zero with ill := true } := by
      rw [acceptInvalid_STATUS, idle]
      rfl
    have stillIdle : (acceptInvalid s b).STATUS.busy = false := congrArg Status.busy status
    have read : hostRead (acceptInvalid s b) statusAddr = statusByte (acceptInvalid s b).STATUS :=
      hostRead_idle _ _ stillIdle
    refine ⟨?_, ?_, step_of_idle stillIdle⟩
    · rw [acceptInvalid, idle]
    · rw [read, status]
      decide
  · rw [step_of_idle idle, Host.Outcome.next.injEq] at stepped
    exact stepped ▸ hostTurn_keeps_ill ill

theorem statusByte_completeStatus {f : Status} (notIll : f.ill = false) (cb pv : Bool) :
    statusByte (completeStatus f cb pv) =
      0x02 ||| ((BitVec.ofBool cb).setWidth 8 <<< 2) ||| ((BitVec.ofBool pv).setWidth 8 <<< 3) := by
  rw [completeStatus, notIll]
  cases cb <;> cases pv <;> rfl

/-- Settles O27: the block is idle after `Complete`, so the read shows the stored STATUS. -/
theorem completionStatusByte : Obligations.CompletionStatusByte := by
  intro i s t notIll executed
  rw [exec_next_iff] at executed
  subst executed
  rw [hostRead_idle _ _ rfl]
  exact statusByte_completeStatus notIll _ _

end Sys2Proof.Machine
end

section
/-! The pseudo-instructions that move a register byte by byte through the host port (spec/30_encoding.md R80): the bytes below k
are in place after k of the script's operations. -/

namespace Sys2Proof.Machine

/-- A script of n operations that takes `steps` steps for each: what each keeps and moves on holds after all of them. -/
theorem run_script_of_each {n steps : Nat} {ops : Nat → HostOp} (After : Nat → State → Prop)
    (each : ∀ k < n, ∀ (s : State) (rest : List HostOp), s.script = ops k :: rest → After k s →
      ∃ t, run steps s = .next t ∧ After (k + 1) t ∧ t.script = rest)
    {s : State} {rest : List HostOp} (script : s.script = (List.range n).map ops ++ rest) (start : After 0 s) :
    ∃ t, run (n * steps) s = .next t ∧ After n t ∧ t.script = rest := by
  induction n generalizing rest with
  | zero => exact ⟨s, by rw [Nat.zero_mul, run_zero], start, script⟩
  | succ n ih =>
    rw [List.range_succ, List.map_append, List.append_assoc] at script
    obtain ⟨t, ran, after, head⟩ := ih (fun k inside => each k (by omega)) script
    obtain ⟨u, ranLast, afterLast, tail⟩ := each n (by omega) t rest head after
    exact ⟨u, by rw [Nat.succ_mul, run_add ran, ranLast], afterLast, tail⟩

/-- The registers a host writes (spec/20_memory.md R57, R58). -/
inductive DataReg where
  | a
  | b
  | t

/-- How many bytes the register has (spec/20_memory.md R51). -/
def DataReg.bytes : DataReg → Nat
  | .a | .b => 32
  | .t => 64

/-- The address of the register's byte 0 (spec/20_memory.md R51). -/
def DataReg.base : DataReg → Nat
  | .a => 0x00
  | .b => 0x20
  | .t => 0x40

/-- The register's value in a state. -/
def DataReg.get : (r : DataReg) → State → BitVec (8 * r.bytes)
  | .a, s => s.A
  | .b, s => s.B
  | .t, s => s.T

/-- The state with another value in the register. -/
def DataReg.put : (r : DataReg) → BitVec (8 * r.bytes) → State → State
  | .a, v, s => { s with A := v }
  | .b, v, s => { s with B := v }
  | .t, v, s => { s with T := v }

section
variable (r : DataReg) (v : BitVec (8 * r.bytes)) (s : State)

@[simp] theorem DataReg.get_put : r.get (r.put v s) = v := by
  cases r <;> rfl

@[simp] theorem DataReg.put_put (w : BitVec (8 * r.bytes)) : r.put w (r.put v s) = r.put w s := by
  cases r <;> rfl

@[simp] theorem DataReg.put_get : r.put (r.get s) s = s := by
  cases r <;> rfl

@[simp] theorem DataReg.put_R : (r.put v s).R = s.R := by
  cases r <;> rfl

@[simp] theorem DataReg.put_STATUS : (r.put v s).STATUS = s.STATUS := by
  cases r <;> rfl

end

/-- A write at one of the register's addresses is the write of that byte (spec/20_memory.md R57). -/
theorem hostWrite_dataReg (r : DataReg) {s : State} (idle : s.STATUS.busy = false) {k : Nat} (inside : k < r.bytes)
    (b : Byte) : hostWrite s (addrAt r.base k) b = r.put (setByte (r.get s) k b) s := by
  cases r <;> simp only [DataReg.bytes, DataReg.base] at inside ⊢
  case a => exact hostWrite_a idle b ⟨(addrAt_toNat (by omega)).trans (Nat.zero_add k), inside⟩
  case b => exact hostWrite_b idle b ⟨addrAt_toNat (by omega), inside⟩
  case t => exact hostWrite_t idle b ⟨addrAt_toNat (by omega), inside⟩

/-- The bytes of v below k are those of x. -/
def LowBytesAgree {w : Nat} (x : BitVec w) (k : Nat) (v : BitVec w) : Prop :=
  ∀ j < k, byteOf v j = byteOf x j

theorem LowBytesAgree.setByte {n k : Nat} {x v : BitVec (8 * n)} (agree : LowBytesAgree x k v) (inside : k < n) :
    LowBytesAgree x (k + 1) (setByte v k (byteOf x k)) := by
  intro j below
  rw [byteOf_setByte v j k _ (by omega)]
  split
  · next last => rw [last]
  · exact agree j (by omega)

theorem LowBytesAgree.eq {n : Nat} {x v : BitVec (8 * n)} (agree : LowBytesAgree x n v) : v = x :=
  eq_of_byteOf_eq v x agree

/-! ### LD.A, LD.B, LD.T -/

theorem run_wr {s : State} {addr b : Byte} {rest : List HostOp} (idle : s.STATUS.busy = false)
    (head : s.script = .wr addr b :: rest) : run 1 s = .next (hostWrite { s with script := rest } addr b) := by
  rw [run_one, step_of_idle idle, hostTurn_wr head]

/-- After k writes of the load of x the register's low k bytes are those of x, and nothing else of s but the script has
changed. -/
def Loaded (r : DataReg) (x : BitVec (8 * r.bytes)) (s : State) (k : Nat) (t : State) : Prop :=
  ∃ v ops, LowBytesAgree x k v ∧ t = { r.put v s with script := ops }

theorem Loaded.after_write {r : DataReg} {x : BitVec (8 * r.bytes)} {s t : State} {k : Nat} {rest : List HostOp}
    (idle : s.STATUS.busy = false) (inside : k < r.bytes)
    (head : t.script = .wr (addrAt r.base k) (byteOf x k) :: rest) (loaded : Loaded r x s k t) :
    ∃ u, run 1 t = .next u ∧ Loaded r x s (k + 1) u ∧ u.script = rest := by
  obtain ⟨v, ops, agree, rfl⟩ := loaded
  have putIdle : (r.put v s).STATUS.busy = false := by rw [r.put_STATUS, idle]
  refine ⟨_, run_wr putIdle head, ⟨_, rest, agree.setByte inside, ?_⟩, hostWrite_script _ _ _⟩
  rw [hostWrite_withScript (r.put v s), hostWrite_dataReg r putIdle inside, r.get_put, r.put_put]

theorem run_loadOps (r : DataReg) (x : BitVec (8 * r.bytes)) {s : State} {rest : List HostOp}
    (idle : s.STATUS.busy = false) (script : s.script = loadOps r.base r.bytes x ++ rest) :
    run r.bytes s = .next { r.put x s with script := rest } := by
  have start : Loaded r x s 0 s :=
    ⟨r.get s, s.script, fun _ below => absurd below (Nat.not_lt_zero _), by rw [r.put_get]⟩
  obtain ⟨t, ran, ⟨v, ops, agree, rfl⟩, rfl⟩ :=
    run_script_of_each (Loaded r x s) (fun k inside t rest head => Loaded.after_write idle inside head) script start
  rw [Nat.mul_one] at ran
  rw [ran, agree.eq]

/-- Settles O55: one load for each of the three registers. -/
theorem loadPseudoInstructions : Obligations.LoadPseudoInstructions :=
  fun _ x y _ idle => ⟨run_loadOps .a x idle, run_loadOps .b x idle, run_loadOps .t y idle⟩

/-! ### ST.R, ST.T -/

theorem natOfBytes_append (bs : List Byte) (b : Byte) :
    natOfBytes (bs ++ [b]) = natOfBytes bs + 2 ^ (8 * bs.length) * b.toNat := by
  induction bs with
  | nil => simp [natOfBytes]
  | cons c bs ih =>
    have power : 2 ^ (8 * (bs.length + 1)) = 256 * 2 ^ (8 * bs.length) := by rw [Nat.mul_succ, Nat.pow_add, Nat.mul_comm]
    rw [List.cons_append, natOfBytes, ih, natOfBytes, List.length_cons, power]
    ring

theorem natOfBytes_map_range (f : Nat → Byte) (n : Nat) :
    natOfBytes ((List.range n).map f) = ∑ k ∈ Finset.range n, 2 ^ (8 * k) * (f k).toNat := by
  induction n with
  | zero => rfl
  | succ n ih =>
    rw [List.range_succ, List.map_append, List.map_singleton, natOfBytes_append, ih, List.length_map, List.length_range,
      Finset.sum_range_succ]

/-- After k reads the block is as it was and the host has heard the low k bytes of x, the newest first. -/
def Heard {w : Nat} (x : BitVec w) (s : State) (k : Nat) (t : State) : Prop :=
  SameBlock s t ∧ t.received = ((List.range k).map (byteOf x)).reverse ++ s.received

theorem Heard.after_read {w : Nat} {x : BitVec w} {s t : State} {addr : Byte} {k : Nat} {rest : List HostOp}
    (idle : s.STATUS.busy = false) (shown : windowByte s addr = byteOf x k) (head : t.script = .rd addr :: rest)
    (heard : Heard x s k t) : ∃ u, run 1 t = .next u ∧ Heard x s (k + 1) u ∧ u.script = rest := by
  obtain ⟨block, received⟩ := heard
  have ⟨a, b, wide, r, cmd, status, _⟩ := block
  have stillIdle : t.STATUS.busy = false := by rw [status, idle]
  have read : hostRead t addr = byteOf x k := by
    rw [hostRead_idle t addr stillIdle, windowByte_congr a b cmd (fun _ _ => wide) (fun _ _ => r) fun _ => status, shown]
  have stepped : step t = .next (hear { t with script := rest } (byteOf x k)) := by
    rw [step_of_idle stillIdle, hostTurn_rd head, ← read]
    rfl
  refine ⟨_, (run_one t).trans stepped, ⟨block, ?_⟩, rfl⟩
  simp [received, List.range_succ]

/-- The store of a value whose bytes stand at base, base + 1, ..., one read a step. -/
theorem run_storeOps {s : State} {rest : List HostOp} (idle : s.STATUS.busy = false) {w n base : Nat} (width : w = 8 * n)
    (x : BitVec w) (shown : ∀ k < n, windowByte s (addrAt base k) = byteOf x k)
    (script : s.script = storeOps base n ++ rest) :
    ∃ t, run n s = .next t ∧ SameBlock s t ∧ t.script = rest ∧ lastRead t n = x.toNat := by
  obtain ⟨t, ran, ⟨block, received⟩, tail⟩ :=
    run_script_of_each (Heard x s) (fun k inside t rest head => Heard.after_read idle (shown k inside) head) script
      ⟨.refl s, rfl⟩
  rw [Nat.mul_one] at ran
  refine ⟨t, ran, block, tail, ?_⟩
  have newest : t.received.take n = ((List.range n).map (byteOf x)).reverse := by
    rw [received, List.take_left' (by simp)]
  rw [lastRead, newest, List.reverse_reverse, natOfBytes_map_range, ← toNat_eq_sum_byteOf width]

/-- Settles O56: R's bytes and T's stand in the window from 0x80 and from 0x40 on. -/
theorem storePseudoInstructions : Obligations.StorePseudoInstructions :=
  fun s _ idle =>
    ⟨run_storeOps idle rfl s.R fun _ inR => windowByte_r s ⟨addrAt_toNat (by omega), inR⟩,
      run_storeOps idle rfl s.T fun _ inT => windowByte_t s ⟨addrAt_toNat (by omega), inT⟩⟩

/-! ### CP.RA, CP.RB -/

theorem SameBlock.get_put {r : DataReg} {v : BitVec (8 * r.bytes)} {s t : State} (block : SameBlock (r.put v s) t) :
    r.get t = v := by
  obtain ⟨a, b, wide, -⟩ := block
  cases r
  case a => exact a
  case b => exact b
  case t => exact wide

theorem SameBlock.put_of_put {r : DataReg} {v : BitVec (8 * r.bytes)} {s t : State} (block : SameBlock (r.put v s) t)
    (v' : BitVec (8 * r.bytes)) : SameBlock (r.put v' s) (r.put v' t) := by
  obtain ⟨a, b, wide, rest⟩ := block
  cases r
  case a => exact ⟨rfl, b, wide, rest⟩
  case b => exact ⟨a, rfl, wide, rest⟩
  case t => exact ⟨a, b, rfl, rest⟩

/-- After k pairs of a copy of x the register's low k bytes are those of x, and the rest of the block is that of s. -/
def Copied (r : DataReg) (x : BitVec (8 * r.bytes)) (s : State) (k : Nat) (t : State) : Prop :=
  ∃ v, LowBytesAgree x k v ∧ SameBlock (r.put v s) t

theorem SameBlock.hostWrite_dataReg {r : DataReg} {v : BitVec (8 * r.bytes)} {s t : State}
    (block : SameBlock (r.put v s) t) (idle : t.STATUS.busy = false) {k : Nat} (inside : k < r.bytes) (b : Byte) :
    SameBlock (r.put (setByte v k b) s) (hostWrite t (addrAt r.base k) b) := by
  rw [Machine.hostWrite_dataReg r idle inside, block.get_put]
  exact block.put_of_put _

/-- A pair of CP on an idle block: the byte read is written at the next step (spec/30_encoding.md R80). -/
theorem run_rdTo {s : State} {src dst : Byte} {rest : List HostOp} (idle : s.STATUS.busy = false)
    (head : s.script = .rdTo src dst :: rest) :
    run 2 s = .next (hostWrite (hear { s with script := rest } (hostRead s src)) dst (hostRead s src)) := by
  have read : step s = .next { hear s (hostRead s src) with script := .wr dst (hostRead s src) :: rest } :=
    (step_of_idle idle).trans (congrArg _ (hostTurn_cons head))
  exact (run_succ_next read 1).trans (run_wr (by exact idle) rfl)

theorem Copied.after_pair {r : DataReg} {x : BitVec (8 * r.bytes)} {s t : State} {k : Nat} {rest : List HostOp}
    (idle : s.STATUS.busy = false) (inR : k < 32) (inside : k < r.bytes) (same : byteOf x k = byteOf s.R k)
    (head : t.script = .rdTo (addrAt 0x80 k) (addrAt r.base k) :: rest) (copied : Copied r x s k t) :
    ∃ u, run 2 t = .next u ∧ Copied r x s (k + 1) u ∧ u.script = rest := by
  obtain ⟨v, agree, block⟩ := copied
  have ⟨_, _, _, sameR, _, status, _⟩ := block
  have stillIdle : t.STATUS.busy = false := by rw [status, r.put_STATUS, idle]
  have read : hostRead t (addrAt 0x80 k) = byteOf x k := by
    rw [hostRead_idle t _ stillIdle, windowByte_r t ⟨addrAt_toNat (by omega), inR⟩, sameR, r.put_R, same]
  have heard : SameBlock (r.put v s) (hear { t with script := rest } (byteOf x k)) := block
  have ran := run_rdTo stillIdle head
  rw [read] at ran
  exact ⟨_, ran, ⟨_, agree.setByte inside, heard.hostWrite_dataReg stillIdle inside _⟩, hostWrite_script _ _ _⟩

/-- The copy of R into a register of its size, one pair of accesses after the other. -/
theorem run_copyOps (r : DataReg) (x : BitVec (8 * r.bytes)) {s : State} {rest : List HostOp} (size : r.bytes = 32)
    (same : ∀ k < 32, byteOf x k = byteOf s.R k) (idle : s.STATUS.busy = false)
    (script : s.script = copyOps r.base ++ rest) :
    ∃ t, run 64 s = .next t ∧ SameBlock (r.put x s) t ∧ t.script = rest := by
  have start : Copied r x s 0 s :=
    ⟨r.get s, fun _ below => absurd below (Nat.not_lt_zero _), by rw [r.put_get]; exact .refl s⟩
  obtain ⟨t, ran, ⟨v, agree, block⟩, tail⟩ := run_script_of_each (Copied r x s)
    (fun k inR t rest head => Copied.after_pair idle inR (size ▸ inR) (same k inR) head) script start
  rw [← size] at agree
  exact ⟨t, ran, agree.eq ▸ block, tail⟩

/-- Settles O57: R's value is the one copied into A or B. -/
theorem copyPseudoInstructions : Obligations.CopyPseudoInstructions :=
  fun s _ idle => ⟨run_copyOps .a s.R rfl (fun _ _ => rfl) idle, run_copyOps .b s.R rfl (fun _ _ => rfl) idle⟩

end Sys2Proof.Machine
end

section
/-! The raw functions, the helper primitives and their byte-serial forms (spec/40_raw_arith.md R90, R91, R94 to R98), and the
two raw commands (R92, R93). A loop over the bytes of a value is followed by `LowBytesAgree`: the bytes below k are in place
after k rounds. -/

namespace Sys2Proof.Machine

/-- What each round of a loop over 0 to n - 1 keeps and moves on holds after all of them. -/
theorem foldl_range_induction {α : Type*} {n : Nat} {round : α → Nat → α} {start : α} (After : Nat → α → Prop)
    (before : After 0 start) (each : ∀ k < n, ∀ acc, After k acc → After (k + 1) (round acc k)) :
    After n ((List.range n).foldl round start) := by
  induction n with
  | zero => exact before
  | succ n ih =>
    rw [List.range_succ, List.foldl_append]
    exact each n (by omega) _ (ih fun k below => each k (by omega))

theorem LowBytesAgree.zero {w : Nat} (x v : BitVec w) : LowBytesAgree x 0 v :=
  fun _ below => absurd below (Nat.not_lt_zero _)

/-- A byte loop with a bit threaded between the positions: it ends with x and the last bit when round k, given the bit into
position k, writes byte k of x and hands on the bit into position k + 1. -/
theorem foldl_bytes_eq {n : Nat} {round : BitVec (8 * n) × Bool → Nat → BitVec (8 * n) × Bool} {x : BitVec (8 * n)}
    {bit : Nat → Bool} (noBitIn : bit 0 = false)
    (each : ∀ k < n, ∀ v, round (v, bit k) k = (setByte v k (byteOf x k), bit (k + 1))) :
    (List.range n).foldl round (0, false) = (x, bit n) := by
  obtain ⟨agree, last⟩ := foldl_range_induction (n := n) (round := round) (start := (0, false))
    (fun k acc => LowBytesAgree x k acc.1 ∧ acc.2 = bit k) ⟨.zero x 0, noBitIn.symm⟩ fun k inside acc after => by
      obtain ⟨v, b⟩ := acc
      obtain ⟨agree, rfl⟩ := after
      rw [each k inside v]
      exact ⟨agree.setByte inside, rfl⟩
  exact Prod.ext agree.eq last

/-! ### The carry into a byte, and the byte-serial adder and subtractor -/

/-- A sum of two digits to the base m is its digit and its carry. -/
theorem add_eq_mod_add_carry {a b m : Nat} (digitA : a < m) (digitB : b < m) :
    a + b = (a + b) % m + m * (decide (m ≤ a + b)).toNat := by
  rcases Nat.lt_or_ge (a + b) m with fits | carries
  · rw [Nat.mod_eq_of_lt fits, decide_eq_false (Nat.not_le.mpr fits), Bool.toNat_false, Nat.mul_zero, Nat.add_zero]
  · rw [decide_eq_true carries, Bool.toNat_true, Nat.mul_one, Nat.mod_eq_sub_mod carries, Nat.mod_eq_of_lt (by omega),
      Nat.sub_add_cancel carries]

/-- The low i bits of a sum and the carry into position i. -/
theorem low_add_low {w : Nat} (x y : BitVec w) {i : Nat} (inside : i ≤ w) :
    x.toNat % 2 ^ i + y.toNat % 2 ^ i = (x + y).toNat % 2 ^ i + 2 ^ i * (BitVec.carry i x y false).toNat := by
  have positive := Nat.two_pow_pos i
  have low : (x + y).toNat % 2 ^ i = (x.toNat % 2 ^ i + y.toNat % 2 ^ i) % 2 ^ i := by
    rw [BitVec.toNat_add, Nat.mod_mod_of_dvd _ (Nat.pow_dvd_pow 2 inside), Nat.add_mod]
  rw [low]
  exact add_eq_mod_add_carry (Nat.mod_lt _ positive) (Nat.mod_lt _ positive)

theorem low_succ_byte {w : Nat} (x : BitVec w) (k : Nat) :
    x.toNat % 2 ^ (8 * (k + 1)) = x.toNat % 2 ^ (8 * k) + 2 ^ (8 * k) * (byteOf x k).toNat := by
  rw [byteOf_toNat, Nat.mul_succ, Nat.pow_add, Nat.mod_mul]

/-- One byte position of a sum: both bytes and the carry into it are the sum's byte and the carry out of it. -/
theorem byteOf_add_carry {w : Nat} (x y : BitVec w) {k : Nat} (inside : 8 * (k + 1) ≤ w) :
    (byteOf x k).toNat + (byteOf y k).toNat + (BitVec.carry (8 * k) x y false).toNat =
      (byteOf (x + y) k).toNat + 256 * (BitVec.carry (8 * (k + 1)) x y false).toNat := by
  have below := low_add_low x y (i := 8 * k) (by omega)
  have upTo := low_add_low x y inside
  rw [low_succ_byte, low_succ_byte, low_succ_byte, Nat.mul_succ, Nat.pow_add] at upTo
  refine Nat.eq_of_mul_eq_mul_left (Nat.two_pow_pos (8 * k)) ?_
  rw [Nat.mul_succ]
  linarith

theorem rawAddRound_carry (x y v : U256) {k : Nat} (inside : k < 32) :
    rawAddRound x y (v, BitVec.carry (8 * k) x y false) k =
      (setByte v k (byteOf (x + y) k), BitVec.carry (8 * (k + 1)) x y false) := by
  have sum := byteOf_add_carry x y (k := k) (by omega)
  have digit := (byteOf (x + y) k).isLt
  rw [rawAddRound, sum]
  congr 1
  · rw [Nat.add_mul_mod_self_left, Nat.mod_eq_of_lt digit, BitVec.ofNat_toNat, BitVec.setWidth_eq]
  · rw [Nat.add_mul_div_left _ _ (by decide), Nat.div_eq_of_lt digit, Nat.zero_add]
    cases BitVec.carry (8 * (k + 1)) x y false <;> rfl

/-- The carry out of the top of a 256-bit sum is rawAdd's. -/
theorem carry_256 (x y : U256) : BitVec.carry (8 * 32) x y false = (rawAdd x y).2 := by
  rw [BitVec.carry, rawAdd_snd, Nat.mod_eq_of_lt x.isLt, Nat.mod_eq_of_lt y.isLt, Bool.toNat_false, Nat.add_zero]

theorem rawAddSerial_eq (x y : U256) : rawAddSerial x y = rawAdd x y :=
  calc rawAddSerial x y = (x + y, BitVec.carry (8 * 32) x y false) :=
        foldl_bytes_eq (n := 32) (bit := fun k => BitVec.carry (8 * k) x y false) BitVec.carry_zero
          fun _ inside v => rawAddRound_carry x y v inside
    _ = rawAdd x y := Prod.ext rfl (carry_256 x y)

/-- The borrows of a subtraction are the carries of the sum that undoes it. -/
theorem rawSubRound_carry (z y v : U256) {k : Nat} (inside : k < 32) :
    rawSubRound (z + y) y (v, BitVec.carry (8 * k) z y false) k =
      (setByte v k (byteOf z k), BitVec.carry (8 * (k + 1)) z y false) := by
  have sum := byteOf_add_carry z y (k := k) (by omega)
  have digit := (byteOf z k).isLt
  have difference : ((byteOf (z + y) k).toNat : Int) - (byteOf y k).toNat - (BitVec.carry (8 * k) z y false).toNat =
      (byteOf z k).toNat - 256 * (BitVec.carry (8 * (k + 1)) z y false).toNat := by omega
  rw [rawSubRound, difference]
  congr 1
  · rw [Int.sub_mul_emod_self_left, Int.emod_eq_of_lt (by omega) (by omega), Int.toNat_natCast, BitVec.ofNat_toNat,
      BitVec.setWidth_eq]
  · cases BitVec.carry (8 * (k + 1)) z y false
    · exact decide_eq_false (by simp)
    · exact decide_eq_true (by rw [Bool.toNat_true]; omega)

/-- Adding y back to x - y carries out of the top exactly when the subtraction borrowed. -/
theorem rawAdd_sub_carry (x y : U256) : (rawAdd (x - y) y).2 = (rawSub x y).2 := by
  rw [rawAdd_snd, rawSub_snd, decide_eq_decide]
  bv_omega

theorem rawSubSerial_eq (x y : U256) : rawSubSerial x y = rawSub x y := by
  have each {k : Nat} (v : U256) (inside : k < 32) := rawSubRound_carry (x - y) y v inside
  rw [BitVec.sub_add_cancel] at each
  calc rawSubSerial x y = (x - y, BitVec.carry (8 * 32) (x - y) y false) :=
        foldl_bytes_eq (n := 32) (bit := fun k => BitVec.carry (8 * k) (x - y) y false) BitVec.carry_zero
          fun _ inside v => each v inside
    _ = rawSub x y := Prod.ext rfl ((carry_256 _ y).trans (rawAdd_sub_carry x y))

/-- Settles O32: the sum and its carry, and the adder that threads the carry through the bytes. -/
theorem rawAddIntegerAndByteSerial : Obligations.RawAddIntegerAndByteSerial := by
  intro x y
  have exactSum := low_add_low x y (i := 256) (by decide)
  rw [Nat.mod_eq_of_lt x.isLt, Nat.mod_eq_of_lt y.isLt, Nat.mod_eq_of_lt (x + y).isLt] at exactSum
  exact ⟨rawAdd_fst_toNat x y, decide_eq_true_iff, carry_256 x y ▸ exactSum, rawAddSerial_eq x y⟩

/-- x - y in the integers is the wrapped difference less what was borrowed (spec/40_raw_arith.md R91). -/
theorem rawSub_exact (x y : U256) :
    ((x.toNat : Int) - y.toNat) = (rawSub x y).1.toNat - 2 ^ 256 * (rawSub x y).2.toNat := by
  have ltx := x.isLt
  rw [rawSub_fst_toNat, rawSub_snd]
  by_cases borrow : x.toNat < y.toNat
  · rw [decide_eq_true borrow, Bool.toNat_true]
    omega
  · rw [decide_eq_false borrow, Bool.toNat_false]
    omega

/-- The wrapped difference is the integer one modulo 2^256 (spec/40_raw_arith.md R91). -/
theorem rawSub_fst_eq_emod (x y : U256) :
    ((rawSub x y).1.toNat : Int) = ((x.toNat : Int) - y.toNat) % 2 ^ 256 := by
  have fits := (rawSub x y).1.isLt
  rw [rawSub_exact, Int.sub_mul_emod_self_left, Int.emod_eq_of_lt (by omega) (by omega)]

/-- Settles O33: the difference and its borrow, and the subtractor that threads the borrow through the bytes. -/
theorem rawSubIntegerAndByteSerial : Obligations.RawSubIntegerAndByteSerial := by
  intro x y
  exact ⟨rawSub_fst_eq_emod x y, rawSub_exact x y, decide_eq_true_iff, rawSubSerial_eq x y⟩

/-! ### Zero test, parity and comparison -/

theorem isZero_iff_bytes (x : U256) : isZero x = true ↔ ∀ k < 32, byteOf x k = 0x00 := by
  have byteOf_zero (k : Nat) : byteOf (0 : U256) k = 0x00 := BitVec.extractLsb'_zero
  rw [isZero, beq_iff_eq]
  constructor
  · rintro rfl k -
    exact byteOf_zero k
  · exact fun bytes => eq_of_byteOf_eq (n := 32) x 0 fun k inside => (bytes k inside).trans (byteOf_zero k).symm

theorem isEven_iff {w : Nat} (x : BitVec w) : isEven x = true ↔ x.toNat % 2 = 0 := by
  rw [isEven_eq, decide_eq_true_iff]

theorem isEven_zero (w : Nat) : isEven (0 : BitVec w) = true := by
  simp [isEven_iff]

/-- Bit 0 of a value is bit 0 of its byte 0. -/
theorem isEven_eq_byte {w : Nat} (x : BitVec w) : isEven x = !(byteOf x 0).getLsbD 0 := by
  rw [getLsbD_byteOf]
  rfl

/-- The scan compares the low n bytes: a higher byte outweighs all the bytes below it. -/
theorem geqScan_eq (n : Nat) (x y : U256) :
    geqScan n x y = decide (y.toNat % 2 ^ (8 * n) ≤ x.toNat % 2 ^ (8 * n)) := by
  induction n with
  | zero => simp [geqScan, Nat.mod_one]
  | succ n ih =>
    have ltx := Nat.mod_lt x.toNat (Nat.two_pow_pos (8 * n))
    have lty := Nat.mod_lt y.toNat (Nat.two_pow_pos (8 * n))
    have outweighs {a b : Nat} (less : a < b) : 2 ^ (8 * n) * a + 2 ^ (8 * n) ≤ 2 ^ (8 * n) * b :=
      Nat.mul_le_mul_left (2 ^ (8 * n)) less
    rw [geqScan, low_succ_byte, low_succ_byte]
    split
    · next same => rw [ih, same, decide_eq_decide, Nat.add_le_add_iff_right]
    · next differ =>
      rw [decide_eq_decide]
      rcases Nat.lt_or_gt_of_ne (mt BitVec.eq_of_toNat_eq differ) with less | greater
      · have higher := outweighs less
        omega
      · have higher := outweighs greater
        omega

theorem geqSerial_eq (x y : U256) : geqSerial x y = geq x y := by
  rw [geqSerial, geqScan_eq, geq_eq, Nat.mod_eq_of_lt x.isLt, Nat.mod_eq_of_lt y.isLt]

/-- Settles O34: the zero test and the comparison byte by byte, the parity test at both widths. -/
theorem helperPredicates : Obligations.HelperPredicates :=
  ⟨fun x y => ⟨isZero_iff x, isZero_iff_bytes x, isEven_iff x, rfl, isEven_eq_byte x, rfl, isEven_zero 256,
      by rw [geq_eq, decide_eq_true_iff], rfl, geqSerial_eq x y⟩,
    fun z => ⟨isEven_iff z, rfl, isEven_eq_byte z, rfl, isEven_zero 257⟩⟩

/-! ### The one-bit shifts -/

theorem getLsbD_shr1 (x : U256) (i : Nat) : (shr1 x).getLsbD i = x.getLsbD (i + 1) := by
  rw [shr1, BitVec.getLsbD_ushiftRight, Nat.add_comm]

/-- The byte-serial shift forms byte k from byte k and the lowest bit of the byte above it. -/
theorem shr1Byte_eq (x : U256) (k : Nat) : shr1Byte x k = byteOf (shr1 x) k := by
  apply BitVec.eq_of_getLsbD_eq
  intro i inByte
  rw [shr1Byte, BitVec.getLsbD_or, BitVec.getLsbD_ushiftRight, BitVec.getLsbD_shiftLeft, BitVec.getLsbD_and,
    getLsbD_byteOf, getLsbD_byteOf, getLsbD_byteOf, getLsbD_shr1]
  rcases Nat.lt_or_eq_of_le (Nat.le_of_lt_succ inByte) with low | rfl
  · have inside : 1 + i < 8 := by omega
    have same : 8 * k + (1 + i) = 8 * k + i + 1 := by omega
    simp [low, inside, inByte, same]
  · simp [Nat.mul_succ, Nat.add_assoc]

theorem shr1Serial_eq (x : U256) : shr1Serial x = shr1 x := by
  refine LowBytesAgree.eq (n := 32) (foldl_range_induction (LowBytesAgree (shr1 x)) (.zero _ _) ?_)
  intro k inside v agree
  rw [shr1Byte_eq]
  exact LowBytesAgree.setByte (n := 32) agree inside

theorem getLsbD_shr1c_top (c : Bool) (x : U256) : (shr1c c x).getLsbD 255 = c := by
  have top : (BitVec.ofBool c ++ x).getLsbD 256 = c := by
    rw [BitVec.getLsbD_append]
    simp
  rw [shr1c, BitVec.getLsbD_setWidth, BitVec.getLsbD_ushiftRight, top]
  rfl

/-- Settles O35: the shift as a quotient, bit by bit and byte by byte, and the shift with a bit entering at the top. -/
theorem shiftPrimitives : Obligations.ShiftPrimitives := by
  intro x c
  refine ⟨shr1_toNat x, ?_, fun i _ => getLsbD_shr1 x i, ?_, shr1Serial_eq x, shr1c_toNat c x, getLsbD_shr1c_top c x⟩
  · rw [getLsbD_shr1, BitVec.getLsbD_of_ge x 256 (Nat.le_refl 256)]
  · intro even
    rw [isEven_iff] at even
    rw [shr1_toNat]
    omega

/-! ### RADD and RSUB -/

/-- Settles O19: RADD's result is the sum reduced to the width, its CB the carry. -/
theorem raddResult : Obligations.RaddResult := by
  refine ⟨rfl, fun s => ?_⟩
  have sum : BitVec.ofNat 256 ((s.A.toNat + s.B.toNat) % 2 ^ 256) = (rawAdd s.A s.B).1 := by
    rw [← rawAdd_fst_toNat, BitVec.ofNat_toNat, BitVec.setWidth_eq]
  rw [sum]
  exact exec_eq_completed .radd s

/-- Settles O20: RSUB's result is the difference reduced to the width, its CB the borrow. -/
theorem rsubResult : Obligations.RsubResult := by
  refine ⟨rfl, fun s => ?_⟩
  have difference : BitVec.ofInt 256 ((s.A.toNat : Int) - s.B.toNat) = (rawSub s.A s.B).1 := by
    apply BitVec.eq_of_toNat_eq
    rw [BitVec.toNat_ofInt, Nat.cast_pow, Nat.cast_ofNat, ← rawSub_fst_eq_emod, Int.toNat_natCast]
  rw [difference]
  exact exec_eq_completed .rsub s

end Sys2Proof.Machine
end

section
/-! Modular addition and subtraction (spec/41_mod_addsub.md R110 to R117): the literal procedure leaves the exact sum or
difference, or p beside it, wherever one correction is enough, and canon makes of either the residue. -/

namespace Sys2Proof.Machine

/-! ### The canon stage -/

/-- The adder with r carries exactly for the values that are not canonical, since r = 2^256 - p (R110, R182). -/
theorem outOfRange_eq (v : U256) : outOfRange v = decide (pNat ≤ v.toNat) := by
  obtain ⟨below, -, -⟩ := pNat_bounds
  rw [outOfRange, rawAdd_snd, reducerConst_toNat]
  exact decide_eq_decide.mpr (by omega)

/-- Adding r to a value from p on and dropping the carry subtracts p (R110). -/
theorem rawAdd_reducerConst_toNat {v : U256} (large : pNat ≤ v.toNat) :
    (rawAdd v reducerConst).1.toNat = v.toNat - pNat := by
  obtain ⟨below, -, -⟩ := pNat_bounds
  have v_lt := v.isLt
  rw [rawAdd_fst_toNat, reducerConst_toNat]
  omega

theorem canon_toNat (v : U256) : (canon v).toNat = if pNat ≤ v.toNat then v.toNat - pNat else v.toNat := by
  obtain ⟨below, -, -⟩ := pNat_bounds
  rcases canon_cases v with ⟨small, kept⟩ | ⟨large, corrected⟩
  · rw [kept, if_neg (by omega)]
  · have notBelow : pNat ≤ v.toNat := by omega
    rw [corrected, if_pos notBelow]
    exact rawAdd_reducerConst_toNat notBelow

theorem canon_of_lt {v : U256} (canonical : v.toNat < pNat) : (canon v).toNat = v.toNat := by
  rw [canon_toNat, if_neg (Nat.not_le.mpr canonical)]

/-- canon is reduction modulo p, as every 256-bit value is below 2p (R110). -/
theorem canon_toNat_eq_mod (v : U256) : (canon v).toNat = v.toNat % pNat := by
  have canonical := canon_lt v
  rw [canon_toNat] at canonical ⊢
  split at canonical
  · next large => rw [if_pos large, Nat.mod_eq_sub_mod large, Nat.mod_eq_of_lt canonical]
  · next small => rw [if_neg small, Nat.mod_eq_of_lt canonical]

/-- Settles O36: canon by its two cases, and the adder and the carry it chooses between them by. -/
theorem canonIsResidue : Obligations.CanonIsResidue := by
  intro v
  have residue : (canon v).toNat ≡ v.toNat [MOD pNat] := by
    rw [canon_toNat_eq_mod]
    exact Nat.mod_modEq _ _
  have carry : (rawAdd v reducerConst).2 = true ↔ pNat ≤ v.toNat := by
    rw [← outOfRange, outOfRange_eq, decide_eq_true_iff]
  exact ⟨canon_toNat v, canon_lt v, residue, carry, rawAdd_reducerConst_toNat⟩

/-! ### Addition -/

theorem modAdd_eq_canon (x y : U256) : (modAdd x y).1 = canon (addLit x y) := by simp only [modAdd]

/-- The literal sum is X + Y, or X + Y - p once it carried (R111, R115). -/
theorem addLit_single {x y : U256} (single : x.toNat + y.toNat < 2 ^ 256 + pNat) :
    (addLit x y).toNat = x.toNat + y.toNat ∨ (addLit x y).toNat + pNat = x.toNat + y.toNat := by
  obtain ⟨below, -, -⟩ := pNat_bounds
  rw [addLit_toNat]
  split
  · right
    omega
  · exact .inl rfl

/-- One correction is enough for every sum below 2^256 + p (R115, R116). -/
theorem modAdd_toNat {x y : U256} (single : x.toNat + y.toNat < 2 ^ 256 + pNat) :
    (modAdd x y).1.toNat = (x.toNat + y.toNat) % pNat := by
  rw [modAdd_eq_canon, canon_toNat_eq_mod]
  rcases addLit_single single with kept | corrected
  · rw [kept]
  · rw [← corrected, Nat.add_mod_right]

/-- From 2^256 + p on the correction overflows a second time, and that 2^256 is dropped for good (R116). -/
theorem modAdd_toNat_of_ge {x y : U256} (twice : 2 ^ 256 + pNat ≤ x.toNat + y.toNat) :
    (modAdd x y).1.toNat = x.toNat + y.toNat - 2 ^ 256 - pNat := by
  obtain ⟨below, above, -⟩ := pNat_bounds
  have x_lt := x.isLt
  have y_lt := y.isLt
  have literal : (addLit x y).toNat = x.toNat + y.toNat - 2 ^ 256 - pNat := by
    rw [addLit_toNat, if_pos (by omega)]
    omega
  have canonical : (addLit x y).toNat < pNat := by omega
  rw [modAdd_eq_canon, canon_of_lt canonical, literal]

/-- The adder is commutative, and with it both corrections, for all operands. -/
theorem modAdd_comm (x y : U256) : modAdd x y = modAdd y x := by
  have raw : rawAdd x y = rawAdd y x := by rw [rawAdd, rawAdd, BitVec.add_comm, Nat.add_comm]
  rw [modAdd, modAdd, addLit, addLit, raw]

/-! ### Subtraction -/

theorem modSub_eq_canon (x y : U256) : (modSub x y).1 = canon (subLit x y) := by simp only [modSub]

/-- The literal difference is X - Y, or X - Y + p once it borrowed (R112, R115). -/
theorem subLit_single {x y : U256} (single : y.toNat ≤ x.toNat + pNat) :
    x.toNat = (subLit x y).toNat + y.toNat ∨ x.toNat + pNat = (subLit x y).toNat + y.toNat := by
  obtain ⟨below, -, -⟩ := pNat_bounds
  have y_lt := y.isLt
  rw [subLit_toNat]
  split
  · right
    omega
  · next noBorrow => exact .inl (Nat.sub_add_cancel (Nat.not_lt.mp noBorrow)).symm

/-- One correction is enough for every difference from -p on (R115, R116). -/
theorem modSub_toNat {x y : U256} (single : y.toNat ≤ x.toNat + pNat) :
    ((modSub x y).1.toNat : Int) = ((x.toNat : Int) - y.toNat) % pNat := by
  rw [modSub_eq_canon, canon_toNat_eq_mod, Int.natCast_mod]
  rcases subLit_single single with kept | corrected
  · rw [kept, Nat.cast_add, add_sub_cancel_right]
  · have difference : (x.toNat : Int) - y.toNat = (subLit x y).toNat - pNat := by omega
    rw [difference, Int.sub_emod_right]

/-- Below -p the correction does not overflow, and the 2^256 that was borrowed stays in the result (R116). -/
theorem modSub_toNat_of_lt {x y : U256} (twice : x.toNat + pNat < y.toNat) :
    (modSub x y).1.toNat = x.toNat + 2 ^ 256 - y.toNat := by
  obtain ⟨below, above, -⟩ := pNat_bounds
  have y_lt := y.isLt
  have literal : (subLit x y).toNat = x.toNat + 2 ^ 256 - y.toNat + pNat := by
    rw [subLit_toNat, if_pos (by omega)]
    omega
  have large : pNat ≤ (subLit x y).toNat := by omega
  rw [modSub_eq_canon, canon_toNat, if_pos large, literal, Nat.add_sub_cancel]

/-! ### In domain, out of domain, and the laws -/

/-- Settles O37: canonical operands never need a second correction. -/
theorem modAddSubInDomain : Obligations.ModAddSubInDomain := by
  intro x y canonicalX canonicalY
  obtain ⟨below, -, -⟩ := pNat_bounds
  exact ⟨modAdd_toNat (by omega), modSub_toNat (by omega), modAdd_lt x y, modSub_lt x y⟩

/-- Settles O38: the wrong values are canonical, and lie 2p below X + Y - r and p below X - Y + 2p + r. -/
theorem modAddSubOutOfDomain : Obligations.ModAddSubOutOfDomain := by
  intro x y
  obtain ⟨below, -, -⟩ := pNat_bounds
  have constant := reducerConst_toNat
  have x_lt := x.isLt
  have y_lt := y.isLt
  refine ⟨modAdd_toNat, fun twice => ?_, modSub_toNat, fun twice => ?_⟩
  · have value := modAdd_toNat_of_ge twice
    have shifted : x.toNat + y.toNat - reducerConst.toNat = (modAdd x y).1.toNat + 2 * pNat := by omega
    refine ⟨value, by omega, ?_⟩
    rw [shifted, Nat.add_mul_mod_self_right, Nat.mod_eq_of_lt (modAdd_lt x y)]
  · have value := modSub_toNat_of_lt twice
    have shifted : x.toNat + 2 * pNat + reducerConst.toNat - y.toNat = (modSub x y).1.toNat + pNat := by omega
    refine ⟨value, by omega, by omega, ?_⟩
    rw [shifted, Nat.add_mod_right, Nat.mod_eq_of_lt (modSub_lt x y)]

/-- Subtracting what was added gives back a canonical operand (R117). -/
theorem modSub_modAdd_cancel {a b : U256} (canonicalA : a.toNat < pNat) (canonicalB : b.toNat < pNat) :
    (modSub (modAdd a b).1 b).1 = a := by
  obtain ⟨sum, -, sum_lt, -⟩ := modAddSubInDomain a b canonicalA canonicalB
  obtain ⟨-, difference, -, -⟩ := modAddSubInDomain (modAdd a b).1 b sum_lt canonicalB
  apply BitVec.eq_of_toNat_eq
  zify
  rw [difference, sum, Int.natCast_mod, Int.emod_sub_emod, Nat.cast_add, add_sub_cancel_right,
    Int.emod_eq_of_lt (Int.natCast_nonneg _) (Int.ofNat_lt.mpr canonicalA)]

/-- Both ways to add three canonical operands give the residue of the exact sum (R117). -/
theorem modAdd_assoc {a b c : U256} (canonicalA : a.toNat < pNat) (canonicalB : b.toNat < pNat)
    (canonicalC : c.toNat < pNat) : (modAdd (modAdd a b).1 c).1 = (modAdd a (modAdd b c).1).1 := by
  obtain ⟨sumAB, -, sumAB_lt, -⟩ := modAddSubInDomain a b canonicalA canonicalB
  obtain ⟨sumBC, -, sumBC_lt, -⟩ := modAddSubInDomain b c canonicalB canonicalC
  obtain ⟨left, -⟩ := modAddSubInDomain (modAdd a b).1 c sumAB_lt canonicalC
  obtain ⟨right, -⟩ := modAddSubInDomain a (modAdd b c).1 canonicalA sumBC_lt
  apply BitVec.eq_of_toNat_eq
  rw [left, right, sumAB, sumBC, Nat.mod_add_mod, Nat.add_mod_mod, Nat.add_assoc]

/-- Settles O39: the laws from the residues, the two boundary cases by evaluation. -/
theorem fieldAddSubLaws : Obligations.FieldAddSubLaws := by
  refine ⟨fun a b c canonicalA canonicalB canonicalC => ?_, by decide, by decide⟩
  exact ⟨modSub_modAdd_cancel canonicalA canonicalB, congrArg Prod.fst (modAdd_comm a b),
    modAdd_assoc canonicalA canonicalB canonicalC, modAdd_lt a b, modSub_lt a b⟩

/-! ### MADD and MSUB -/

theorem pvModular_eq (a b : U256) : pvModular a b = decide (pNat ≤ a.toNat ∨ pNat ≤ b.toNat) := by
  rw [pvModular, outOfRange_eq, outOfRange_eq, Bool.decide_or]

/-- Settles O21: PV is the domain test of both operands, and within the domain the value is modAdd's residue. -/
theorem maddResult : Obligations.MaddResult := by
  refine ⟨rfl, fun s => ⟨?_, ?_⟩⟩
  · rw [← pvModular_eq]
    exact exec_eq_completed .madd s
  · rintro ⟨canonicalA, canonicalB⟩
    obtain ⟨sum, -⟩ := modAddSubInDomain s.A s.B canonicalA canonicalB
    exact sum

/-- Settles O22: the same of MSUB, with modSub's residue and its borrow. -/
theorem msubResult : Obligations.MsubResult := by
  refine ⟨rfl, fun s => ⟨?_, ?_⟩⟩
  · rw [← pvModular_eq]
    exact exec_eq_completed .msub s
  · rintro ⟨canonicalA, canonicalB⟩
    obtain ⟨-, difference, -⟩ := modAddSubInDomain s.A s.B canonicalA canonicalB
    exact difference

end Sys2Proof.Machine
end

section
/-! The fast reducer (spec/42_reducer.md R130 to R138): T and the nine terms as weighted sums of the words of T, the fast-reduction
identity row by row of R131's table, and the chain of R132, in which canon makes one correction enough at every step. -/

namespace Sys2Proof.Machine

/-! ### Values as sums of their 32-bit words -/

theorem mod_eq_sum_digits (d m n : Nat) :
    m % 2 ^ (d * n) = ∑ k ∈ Finset.range n, m / 2 ^ (d * k) % 2 ^ d * 2 ^ (d * k) := by
  induction n with
  | zero => simp [Nat.mod_one]
  | succ n ih => rw [Finset.sum_range_succ, ← ih, Nat.mul_succ, Nat.pow_add, Nat.mod_mul, Nat.mul_comm (2 ^ (d * n))]

theorem wordOf_toNat {w : Nat} (x : BitVec w) (k : Nat) : (wordOf x k).toNat = x.toNat / 2 ^ (32 * k) % 2 ^ 32 := by
  rw [wordOf, BitVec.extractLsb'_toNat, Nat.shiftRight_eq_div_pow]

/-- T = Σ c_k · 2^(32k) (R130). -/
theorem toNat_eq_sum_wordOf {w n : Nat} (width : w = 32 * n) (x : BitVec w) :
    x.toNat = ∑ k ∈ Finset.range n, (wordOf x k).toNat * 2 ^ (32 * k) := by
  subst width
  simp only [wordOf_toNat, ← mod_eq_sum_digits, Nat.mod_eq_of_lt x.isLt]

theorem append_toNat {m n : Nat} (x : BitVec m) (y : BitVec n) : (x ++ y).toNat = x.toNat * 2 ^ n + y.toNat := by
  rw [BitVec.toNat_append, ← Nat.shiftLeft_add_eq_or_of_lt y.isLt, Nat.shiftLeft_eq]

/-- The value of a row of R130's table. -/
theorem ofWords_toNat (w7 w6 w5 w4 w3 w2 w1 w0 : U32) :
    (ofWords w7 w6 w5 w4 w3 w2 w1 w0).toNat =
      w7.toNat * 2 ^ 224 + w6.toNat * 2 ^ 192 + w5.toNat * 2 ^ 160 + w4.toNat * 2 ^ 128 +
        w3.toNat * 2 ^ 96 + w2.toNat * 2 ^ 64 + w1.toNat * 2 ^ 32 + w0.toNat := by
  simp only [ofWords, append_toNat]
  ring

/-! ### The fast-reduction identity -/

/-- The signed sum of the positions at which c_k stands in the terms: the rows of R131's table for k = 8 to 15; a lower word
stands in the seed alone. -/
def slotWeight : Nat → Int
  | 8 => 2 ^ 224 - 2 ^ 192 - 2 ^ 96 + 1
  | 9 => -2 ^ 192 - 2 ^ 128 - 2 ^ 96 + 2 ^ 32 + 1
  | 10 => -2 ^ 224 - 2 ^ 160 - 2 ^ 128 + 2 ^ 64 + 2 ^ 32
  | 11 => -2 ^ 224 - 2 ^ 160 + 2 * 2 ^ 96 + 2 ^ 64 - 1
  | 12 => -2 ^ 224 + 2 * 2 ^ 128 + 2 * 2 ^ 96 - 2 ^ 32 - 1
  | 13 => -2 ^ 224 + 2 ^ 192 + 2 * 2 ^ 160 + 2 * 2 ^ 128 + 2 ^ 96 - 2 ^ 64 - 2 ^ 32 - 1
  | 14 => 3 * 2 ^ 192 + 2 * 2 ^ 160 + 2 ^ 128 - 2 ^ 64 - 2 ^ 32 - 1
  | 15 => 3 * 2 ^ 224 + 2 * 2 ^ 192 + 2 ^ 160 - 2 ^ 96 - 2 ^ 64 - 2 ^ 32
  | k => 2 ^ (32 * k)

/-- The check of R131, row by row. -/
theorem pow_modEq_slotWeight : ∀ k < 16, (2 : Int) ^ (32 * k) ≡ slotWeight k [ZMOD pNat] := by
  decide +kernel

/-- The signed sum of the terms of R132, S1 and S2 counted twice. -/
def Terms.value (x : Terms) : Int :=
  x.T0.toNat + 2 * x.S1.toNat + 2 * x.S2.toNat + x.S3.toNat + x.S4.toNat
    - x.D1.toNat - x.D2.toNat - x.D3.toNat - x.D4.toNat

/-- Reading R130's table by columns instead of rows. -/
theorem sum_slotWeight_eq_value (t : U512) :
    ∑ k ∈ Finset.range 16, ((wordOf t k).toNat : Int) * slotWeight k = (terms t).value := by
  simp only [Finset.sum_range_succ, Finset.sum_range_zero, slotWeight, Terms.value, terms, ofWords_toNat]
  push_cast
  ring

/-- Settles O40: both sides are linear in the words of T, and each word's weights agree modulo p. -/
theorem solinasIdentity : Obligations.SolinasIdentity := fun t =>
  calc (t.toNat : Int)
    _ = ∑ k ∈ Finset.range 16, ((wordOf t k).toNat : Int) * 2 ^ (32 * k) := by
      rw [toNat_eq_sum_wordOf (n := 16) rfl t]
      push_cast
      rfl
    _ ≡ ∑ k ∈ Finset.range 16, ((wordOf t k).toNat : Int) * slotWeight k [ZMOD pNat] :=
      Int.ModEq.sum fun k inRange => (pow_modEq_slotWeight k (Finset.mem_range.mp inRange)).mul_left _
    _ = (terms t).value := sum_slotWeight_eq_value t

/-! ### The chain of R132 -/

theorem canon_modEq (v : U256) : ((canon v).toNat : Int) ≡ v.toNat [ZMOD pNat] := by
  rw [canon_toNat_eq_mod, Int.natCast_mod]
  exact Int.mod_modEq _ _

/-- A canonical addend keeps the sum below 2^256 + p, whatever the accumulator holds. -/
theorem reduceAdd_modEq (acc term : U256) :
    ((reduceAdd acc term).toNat : Int) ≡ acc.toNat + term.toNat [ZMOD pNat] := by
  have acc_lt := acc.isLt
  have canonical := canon_lt term
  rw [reduceAdd, modAdd_toNat (by omega)]
  push_cast
  exact (Int.mod_modEq _ _).trans ((canon_modEq term).add_left _)

/-- A canonical subtrahend keeps the difference above -p, whatever the accumulator holds. -/
theorem reduceSub_modEq (acc term : U256) :
    ((reduceSub acc term).toNat : Int) ≡ acc.toNat - term.toNat [ZMOD pNat] := by
  have canonical := canon_lt term
  rw [reduceSub, modSub_toNat (by omega)]
  exact (Int.mod_modEq _ _).trans ((canon_modEq term).sub_left _)

theorem foldl_reduceAdd_modEq (ts : List U256) (acc : U256) :
    ((ts.foldl reduceAdd acc).toNat : Int) ≡ acc.toNat + (ts.map fun v => (v.toNat : Int)).sum [ZMOD pNat] := by
  induction ts generalizing acc with
  | nil => simp
  | cons v ts ih =>
    rw [List.foldl_cons, List.map_cons, List.sum_cons, ← add_assoc]
    exact (ih _).trans ((reduceAdd_modEq acc v).add_right _)

theorem foldl_reduceSub_modEq (ts : List U256) (acc : U256) :
    ((ts.foldl reduceSub acc).toNat : Int) ≡ acc.toNat - (ts.map fun v => (v.toNat : Int)).sum [ZMOD pNat] := by
  induction ts generalizing acc with
  | nil => simp
  | cons v ts ih =>
    rw [List.foldl_cons, List.map_cons, List.sum_cons, ← sub_sub]
    exact (ih _).trans ((reduceSub_modEq acc v).sub_right _)

theorem Terms.value_eq (x : Terms) :
    x.value = x.T0.toNat + (x.added.map fun v => (v.toNat : Int)).sum - (x.subtracted.map fun v => (v.toNat : Int)).sum := by
  simp only [Terms.value, Terms.added, Terms.subtracted, List.map_cons, List.map_nil, List.sum_cons, List.sum_nil]
  ring

theorem reduce_modEq (t : U512) : ((reduce t).toNat : Int) ≡ t.toNat [ZMOD pNat] := by
  refine Int.ModEq.trans ?_ (solinasIdentity t).symm
  have seed := (canon_modEq (terms t).T0).add_right ((terms t).added.map fun v => (v.toNat : Int)).sum
  have added := (foldl_reduceAdd_modEq (terms t).added (canon (terms t).T0)).trans seed
  change _ ≡ (terms t).value [ZMOD pNat]
  rw [Terms.value_eq]
  exact (foldl_reduceSub_modEq _ _).trans (added.sub_right _)

/-- reduce(T) = T mod p for every T (R134): the chain's value is the canonical one of T's residue class. -/
theorem reduce_toNat (t : U512) : (reduce t).toNat = t.toNat % pNat := by
  rw [← Nat.mod_eq_of_lt (reduce_lt t)]
  exact Int.natCast_modEq_iff.mp (reduce_modEq t)

theorem reduce_eq_ofNat (t : U512) : reduce t = BitVec.ofNat 256 (t.toNat % pNat) := by
  rw [← reduce_toNat, BitVec.ofNat_toNat, BitVec.setWidth_eq]

/-! ### RED, and MUL before it -/

/-- Settles O24: RED's result is reduce's residue. -/
theorem redResult : Obligations.RedResult := by
  refine ⟨rfl, fun s => ?_⟩
  rw [← reduce_eq_ofNat]
  exact exec_eq_completed .red s

theorem completed_red_R_toNat (s : State) : (completed .red s).R.toNat = s.T.toNat % pNat := by
  rw [completed_R, finalR, reduce_toNat]

theorem completed_mul_T_toNat (s : State) : (completed .mul s).T.toNat = s.A.toNat * s.B.toNat := by
  rw [completed_T, finalT, multiply_toNat]

/-- Settles O31: MUL's product stays in T for RED, which leaves A and B alone as MUL does (R138, R154). -/
theorem mulThenRedIsFieldProduct : Obligations.MulThenRedIsFieldProduct := by
  intro s
  refine ⟨completed .mul s, completed .red (completed .mul s), exec_eq_completed .mul s, exec_eq_completed .red _, ?_,
    completed_mul_T_toNat s, rfl, rfl⟩
  rw [completed_red_R_toNat, completed_mul_T_toNat]

/-! ### The sizes of the terms, and the chain without canon -/

theorem ofWords_lt_of_word7_zero (w6 w5 w4 w3 w2 w1 w0 : U32) : (ofWords 0 w6 w5 w4 w3 w2 w1 w0).toNat < 2 ^ 224 := by
  rw [ofWords_toNat, BitVec.ofNat_eq_ofNat, BitVec.toNat_zero]
  omega

/-- Word 6 of p is 1, so a value whose word 6 is 0 stays below it (R137). -/
theorem ofWords_lt_of_word6_zero (w7 w5 w4 w3 w2 w1 w0 : U32) : (ofWords w7 0 w5 w4 w3 w2 w1 w0).toNat < pNat := by
  rw [ofWords_toNat, pNat_value, BitVec.ofNat_eq_ofNat, BitVec.toNat_zero]
  omega

theorem canon_eq_self {v : U256} (canonical : v.toNat < pNat) : canon v = v :=
  BitVec.eq_of_toNat_eq (canon_of_lt canonical)

/-- Settles O41: the zero word 7 of S2 and the zero word 6 of D3 and D4 keep them below p; the other terms by evaluation. -/
theorem termSizes : Obligations.TermSizes := by
  refine ⟨fun t => ?_, by decide +kernel⟩
  have s2_small : (terms t).S2.toNat < 2 ^ 224 := ofWords_lt_of_word7_zero _ _ _ _ _ _ _
  have s2 : (terms t).S2.toNat < pNat := s2_small.trans (by decide)
  have d3 : (terms t).D3.toNat < pNat := ofWords_lt_of_word6_zero _ _ _ _ _ _ _
  have d4 : (terms t).D4.toNat < pNat := ofWords_lt_of_word6_zero _ _ _ _ _ _ _
  exact ⟨s2_small, s2, d3, d4, canon_eq_self s2, canon_eq_self d3, canon_eq_self d4⟩

/-- Settles O42: the uncorrected chain by evaluation, the reducer by its residue. -/
theorem uncorrectedChainIsWrong : Obligations.UncorrectedChainIsWrong := by
  unfold Obligations.UncorrectedChainIsWrong
  rw [reduce_eq_ofNat, reduce_eq_ofNat]
  decide +kernel

end Sys2Proof.Machine
end

section
/-! The wide multiplier (spec/43_multiplier.md R150 to R152): the product that MUL writes, and the byte-serial multiplier, which
adds to T, modulo 2^512, each byte pair's product at its place. -/

namespace Sys2Proof.Machine

/-! ### The exact product, and MUL -/

theorem multiply_eq_ofNat (x y : U256) : multiply x y = BitVec.ofNat 512 (x.toNat * y.toNat) := by
  rw [← multiply_toNat, BitVec.ofNat_toNat, BitVec.setWidth_eq]

/-- Settles O23: MUL's T is the exact product, which fits 512 bits (R153). -/
theorem mulResult : Obligations.MulResult := by
  refine ⟨rfl, fun s => ?_⟩
  rw [← multiply_eq_ofNat]
  exact ⟨exec_eq_completed .mul s, multiply_toNat s.A s.B⟩

/-! ### Adding into T at a byte position -/

theorem setByte_of_ge {w k : Nat} (outside : w ≤ 8 * k) (x : BitVec w) (b : Byte) : setByte x k b = x := by
  apply BitVec.eq_of_getLsbD_eq
  intro i inside
  rw [getLsbD_setByte x k b i inside, if_neg (by omega)]

/-- A write of one byte changes the value by that byte's change, at the byte's weight. -/
theorem setByte_toNat_add {n k : Nat} (inside : k < n) (x : BitVec (8 * n)) (b : Byte) :
    (setByte x k b).toNat + 2 ^ (8 * k) * (byteOf x k).toNat = x.toNat + 2 ^ (8 * k) * b.toNat := by
  have here : k ∈ Finset.range n := Finset.mem_range.mpr inside
  have others : ∑ j ∈ (Finset.range n).erase k, 2 ^ (8 * j) * (byteOf (setByte x k b) j).toNat =
      ∑ j ∈ (Finset.range n).erase k, 2 ^ (8 * j) * (byteOf x j).toNat := by
    refine Finset.sum_congr rfl fun j other => ?_
    obtain ⟨differ, below⟩ := Finset.mem_erase.mp other
    rw [byteOf_setByte_other x j k b (by have := Finset.mem_range.mp below; omega) differ]
  rw [toNat_eq_sum_byteOf rfl (setByte x k b), toNat_eq_sum_byteOf rfl x, ← Finset.add_sum_erase _ _ here,
    ← Finset.add_sum_erase _ _ here, others, byteOf_setByte_same x k b (by omega)]
  ring

theorem ofNat_two_pow_mul {w i : Nat} (outside : w ≤ i) (v : Nat) : BitVec.ofNat w (2 ^ i * v) = 0 := by
  apply BitVec.eq_of_toNat_eq
  rw [BitVec.toNat_ofNat, Nat.mod_eq_zero_of_dvd ((Nat.pow_dvd_pow 2 outside).mul_right v)]
  rfl

/-- One round of R151's `while`: byte k of T and what goes on to byte k + 1 together add v at byte k. -/
theorem rippleAdd_round (t : U512) (k v : Nat) :
    setByte t k (BitVec.ofNat 8 (((byteOf t k).toNat + v) % 256)) +
        BitVec.ofNat 512 (2 ^ (8 * (k + 1)) * (((byteOf t k).toNat + v) / 256)) =
      t + BitVec.ofNat 512 (2 ^ (8 * k) * v) := by
  rcases Nat.lt_or_ge k 64 with inside | outside
  · have written := setByte_toNat_add (n := 64) inside t (BitVec.ofNat 8 (((byteOf t k).toNat + v) % 256))
    have digits : 2 ^ (8 * k) * (((byteOf t k).toNat + v) % 256) + 2 ^ (8 * (k + 1)) * (((byteOf t k).toNat + v) / 256) =
        2 ^ (8 * k) * (byteOf t k).toNat + 2 ^ (8 * k) * v := by
      rw [Nat.mul_succ, Nat.pow_add, Nat.mul_assoc, ← Nat.mul_add, ← Nat.mul_add, Nat.mod_add_div]
    rw [BitVec.toNat_ofNat, Nat.mod_mod] at written
    apply BitVec.eq_of_toNat_eq
    rw [BitVec.toNat_add, BitVec.toNat_add, BitVec.toNat_ofNat, BitVec.toNat_ofNat, Nat.add_mod_mod, Nat.add_mod_mod]
    congr 1
    omega
  · rw [setByte_of_ge (by omega), ofNat_two_pow_mul (by omega), ofNat_two_pow_mul (by omega)]

/-- The `while` of R151 adds v at byte k, modulo 2^512: its fuel reaches past the top byte, whose carry is dropped. -/
theorem rippleAdd_eq (fuel : Nat) (t : U512) (k v : Nat) (enough : 64 ≤ k + fuel) :
    rippleAdd fuel t k v = t + BitVec.ofNat 512 (2 ^ (8 * k) * v) := by
  induction fuel generalizing t k v with
  | zero => rw [rippleAdd, ofNat_two_pow_mul (by omega), BitVec.ofNat_eq_ofNat, BitVec.add_zero]
  | succ fuel ih =>
    rw [rippleAdd]
    split
    · next nothingLeft => rw [nothingLeft, Nat.mul_zero, BitVec.add_zero]
    · rw [ih _ _ _ (by omega), rippleAdd_round]

theorem multiplyPair_eq (x y : U256) (t : U512) (i j : Nat) :
    multiplyPair x y t i j = t + BitVec.ofNat 512 (2 ^ (8 * (i + j)) * ((byteOf x i).toNat * (byteOf y j).toNat)) :=
  rippleAdd_eq 64 t (i + j) _ (by omega)

/-! ### The two loops over the bytes -/

/-- The inner loop adds byte i of X times Y, at byte i: after j rounds, times the low j bytes of Y. -/
theorem multiplyRow_eq (x y : U256) (t : U512) (i : Nat) :
    (List.range 32).foldl (fun t j => multiplyPair x y t i j) t =
      t + BitVec.ofNat 512 (2 ^ (8 * i) * (byteOf x i).toNat * y.toNat) := by
  refine (foldl_range_induction (n := 32)
    (fun j acc => acc = t + BitVec.ofNat 512 (2 ^ (8 * i) * (byteOf x i).toNat * (y.toNat % 2 ^ (8 * j)))) ?_ ?_).trans ?_
  · simp [Nat.mod_one]
  · rintro j - acc rfl
    rw [multiplyPair_eq, BitVec.add_assoc, ← BitVec.ofNat_add, low_succ_byte, Nat.mul_add 8, Nat.pow_add]
    congr 2
    ring
  · rw [Nat.mod_eq_of_lt y.isLt]

/-- The outer loop leaves in T, after i rounds, the low i bytes of X times Y (R151). -/
theorem multiplySerial_eq (x y : U256) : multiplySerial x y = multiply x y := by
  refine (foldl_range_induction (n := 32)
    (fun i acc => acc = BitVec.ofNat 512 (x.toNat % 2 ^ (8 * i) * y.toNat)) ?_ ?_).trans ?_
  · simp [Nat.mod_one]
  · rintro i - acc rfl
    rw [multiplyRow_eq, ← BitVec.ofNat_add, ← Nat.add_mul, ← low_succ_byte]
  · rw [Nat.mod_eq_of_lt x.isLt, multiply_eq_ofNat]

/-- Settles O43: the byte-serial loops reach the product modulo 2^512, which is the product itself. -/
theorem multiplyIsByteSerial : Obligations.MultiplyIsByteSerial :=
  fun x y => ⟨multiplySerial_eq x y, multiply_toNat x y⟩

end Sys2Proof.Machine
end

section
/-! The modular inverter (spec/44_inverter.md R160 to R168): the halving loops divide by a power of two, a unit modulo the odd p;
step 3 is a step of Euclid's algorithm; and every round but the first lowers the bit lengths of U and V. -/

namespace Sys2Proof.Machine

theorem isOdd_iff {w : Nat} (x : BitVec w) : isOdd x = true ↔ x.toNat % 2 = 1 := by
  rw [isOdd_eq, decide_eq_true_iff]

theorem isEven_eq_false_iff {w : Nat} (x : BitVec w) : isEven x = false ↔ isOdd x = true := by
  rw [isOdd, Bool.not_eq_true']

/-! ### halveMod -/

/-- Where W is odd, W + p is even as p is odd: in both cases the halving loses nothing (R161). -/
theorem two_mul_halveMod_modEq (w : U256) : 2 * (halveMod w).toNat ≡ w.toNat [MOD pNat] := by
  obtain ⟨-, -, odd_p⟩ := pNat_bounds
  rw [halveMod_toNat]
  split
  · next odd =>
    have exactHalf : 2 * ((w.toNat + pNat) / 2) = w.toNat + pNat := by omega
    rw [exactHalf]
    exact Nat.add_mod_right _ _
  · next even =>
    have exactHalf : 2 * (w.toNat / 2) = w.toNat := by omega
    rw [exactHalf]

/-- Settles O44: the two cases of halveMod, the carry kept. -/
theorem halveModIsHalf : Obligations.HalveModIsHalf := by
  refine fun w canonical => ⟨halveMod_lt canonical, two_mul_halveMod_modEq w, fun odd => ?_, fun even => ?_⟩
  · rw [halveMod_toNat, if_pos odd]
  · rw [halveMod_toNat, if_neg (by omega)]

/-! ### The inner loops -/

theorem halveWhileEven_of_even {u : U256} (even : isEven u = true) (fuel : Nat) (x : U256) :
    halveWhileEven (fuel + 1) u x = halveWhileEven fuel (shr1 u) (halveMod x) := by
  rw [halveWhileEven, if_pos even]

theorem halveWhileEven_of_odd {u : U256} (odd : isOdd u = true) (fuel : Nat) (x : U256) :
    halveWhileEven fuel u x = (u, x) := by
  rw [← isEven_eq_false_iff] at odd
  cases fuel with
  | zero => rfl
  | succ fuel => rw [halveWhileEven, odd, if_neg Bool.false_ne_true]

theorem halvings_of_even {u : U256} (even : isEven u = true) (fuel : Nat) :
    halvings (fuel + 1) u = halvings fuel (shr1 u) + 1 := by
  rw [halvings, if_pos even]

theorem halvings_of_odd {u : U256} (odd : isOdd u = true) (fuel : Nat) : halvings fuel u = 0 := by
  rw [← isEven_eq_false_iff] at odd
  cases fuel with
  | zero => rfl
  | succ fuel => rw [halvings, odd, if_neg Bool.false_ne_true]

theorem eq_two_pow_halvings_mul (fuel : Nat) (u x : U256) :
    u.toNat = 2 ^ halvings fuel u * (halveWhileEven fuel u x).1.toNat := by
  induction fuel generalizing u x with
  | zero => rw [halvings, halveWhileEven, pow_zero, one_mul]
  | succ fuel ih =>
    cases even : isEven u with
    | true =>
      rw [halvings_of_even even, halveWhileEven_of_even even, pow_succ', mul_assoc, ← ih, shr1_toNat]
      rw [isEven_iff] at even
      omega
    | false =>
      rw [isEven_eq_false_iff] at even
      rw [halvings_of_odd even, halveWhileEven_of_odd even, pow_zero, one_mul]

theorem two_pow_halvings_mul_modEq (fuel : Nat) (u x : U256) :
    2 ^ halvings fuel u * (halveWhileEven fuel u x).2.toNat ≡ x.toNat [MOD pNat] := by
  induction fuel generalizing u x with
  | zero => rw [halvings, halveWhileEven, pow_zero, one_mul]
  | succ fuel ih =>
    cases even : isEven u with
    | true =>
      rw [halvings_of_even even, halveWhileEven_of_even even, pow_succ', mul_assoc]
      exact ((ih (shr1 u) (halveMod x)).mul_left 2).trans (two_mul_halveMod_modEq x)
    | false =>
      rw [isEven_eq_false_iff] at even
      rw [halvings_of_odd even, halveWhileEven_of_odd even, pow_zero, one_mul]

theorem isOdd_halveWhileEven {fuel : Nat} {u : U256} (nonzero : u.toNat ≠ 0) (fits : u.toNat < 2 ^ fuel) (x : U256) :
    isOdd (halveWhileEven fuel u x).1 = true := by
  induction fuel generalizing u x with
  | zero => omega
  | succ fuel ih =>
    cases even : isEven u with
    | true =>
      rw [halveWhileEven_of_even even]
      rw [isEven_iff] at even
      exact ih (by rw [shr1_toNat]; omega) (by rw [shr1_toNat]; omega) _
    | false =>
      rw [isEven_eq_false_iff] at even
      rwa [halveWhileEven_of_odd even]

/-- A loop that has met its exit condition leaves further fuel unused. -/
theorem halveWhileEven_add_fuel {fuel : Nat} {u x : U256} (stopped : isOdd (halveWhileEven fuel u x).1 = true) (more : Nat) :
    halveWhileEven (fuel + more) u x = halveWhileEven fuel u x := by
  induction fuel generalizing u x with
  | zero => exact halveWhileEven_of_odd stopped _ x
  | succ fuel ih =>
    cases even : isEven u with
    | true =>
      rw [halveWhileEven_of_even even] at stopped ⊢
      rw [Nat.add_right_comm, halveWhileEven_of_even even]
      exact ih stopped
    | false =>
      rw [isEven_eq_false_iff] at even
      rw [halveWhileEven_of_odd even, halveWhileEven_of_odd even]

/-- The model's fuel is enough for every value an inner loop can start from (R163, log 11). -/
theorem isOdd_halveWhileEven_256 {u : U256} (nonzero : u.toNat ≠ 0) (x : U256) :
    isOdd (halveWhileEven 256 u x).1 = true :=
  isOdd_halveWhileEven nonzero u.isLt x

theorem two_pow_halvings_le {u : U256} (nonzero : u.toNat ≠ 0) (fuel : Nat) : 2 ^ halvings fuel u ≤ u.toNat :=
  Nat.le_of_dvd (Nat.pos_of_ne_zero nonzero) (Dvd.intro _ (eq_two_pow_halvings_mul fuel u 0).symm)

/-- Settles O45: u is 2^halvings times the odd value left, and 2^halvings fits in the 256 bits of u. -/
theorem halvingEndsOdd : Obligations.HalvingEndsOdd := by
  intro u x nonzero
  have odd := isOdd_halveWhileEven_256 nonzero x
  have fits : 2 ^ halvings 256 u < 2 ^ 256 := (two_pow_halvings_le nonzero 256).trans_lt u.isLt
  refine ⟨odd, Nat.le_of_lt_succ ((Nat.pow_lt_pow_iff_right (by decide)).mp fits), eq_two_pow_halvings_mul 256 u x, ?_⟩
  intro fuel enough
  obtain ⟨more, rfl⟩ := Nat.exists_eq_add_of_le enough
  exact halveWhileEven_add_fuel odd more

/-! ### The invariant through the inner loops -/

/-- The power of two the loop divides by is a unit modulo p, so both sides of (a) lose it together (R166). -/
theorem halveWhileEven_keeps_modEq {u c x : U256} (kept : c.toNat * x.toNat ≡ u.toNat [MOD pNat]) (fuel : Nat) :
    (halveWhileEven fuel u c).2.toNat * x.toNat ≡ (halveWhileEven fuel u c).1.toNat [MOD pNat] := by
  obtain ⟨-, -, odd_p⟩ := pNat_bounds
  have unit : Nat.Coprime pNat (2 ^ halvings fuel u) := (Nat.coprime_two_right.mpr (Nat.odd_iff.mpr odd_p)).pow_right _
  refine Nat.ModEq.cancel_left_of_coprime unit ?_
  rw [← mul_assoc, ← eq_two_pow_halvings_mul]
  exact ((two_pow_halvings_mul_modEq fuel u c).mul_right _).trans kept

/-- Halving u beside an odd v removes no common factor, and nothing is halved where u is odd (R166). -/
theorem gcd_halveWhileEven {u v : U256} (oneOdd : isOdd u = true ∨ isOdd v = true) (fuel : Nat) (x : U256) :
    Nat.gcd (halveWhileEven fuel u x).1.toNat v.toNat = Nat.gcd u.toNat v.toNat := by
  rcases oneOdd with odd | odd
  · rw [halveWhileEven_of_odd odd]
  · rw [isOdd_iff, ← Nat.odd_iff, ← Nat.coprime_two_left] at odd
    rw [eq_two_pow_halvings_mul fuel u x, (odd.pow_left _).gcd_mul_left_cancel]

theorem InvertInv.V_ne_zero {x : U256} {q : Pairs} (inv : InvertInv x q) : q.V.toNat ≠ 0 :=
  Nat.one_le_iff_ne_zero.mp inv.positiveV

@[simp] theorem halveBoth_U (q : Pairs) : (halveBoth q).U = (halveWhileEven 256 q.U q.X1).1 := rfl
@[simp] theorem halveBoth_V (q : Pairs) : (halveBoth q).V = (halveWhileEven 256 q.V q.X2).1 := rfl

/-- Step 3 is reached with U and V both odd (R162). -/
def Pairs.BothOdd (q : Pairs) : Prop :=
  isOdd q.U = true ∧ isOdd q.V = true

theorem Pairs.BothOdd.nonzero {q : Pairs} (odd : q.BothOdd) : q.U.toNat ≠ 0 ∧ q.V.toNat ≠ 0 := by
  obtain ⟨oddU, oddV⟩ := odd
  rw [isOdd_iff] at oddU oddV
  omega

theorem halveBoth_bothOdd {q : Pairs} (running : q.U.toNat ≠ 0) (positiveV : q.V.toNat ≠ 0) : (halveBoth q).BothOdd :=
  ⟨isOdd_halveWhileEven_256 running q.X1, isOdd_halveWhileEven_256 positiveV q.X2⟩

/-- V is odd once halved, so halving U keeps the gcd with it; then V is halved beside U, one of the two being odd. -/
theorem gcd_halveBoth {x : U256} {q : Pairs} (inv : InvertInv x q) :
    Nat.gcd (halveBoth q).U.toNat (halveBoth q).V.toNat = Nat.gcd q.U.toNat q.V.toNat := by
  have oddV : isOdd (halveBoth q).V = true := isOdd_halveWhileEven_256 inv.V_ne_zero q.X2
  calc Nat.gcd (halveBoth q).U.toNat (halveBoth q).V.toNat
    _ = Nat.gcd q.U.toNat (halveBoth q).V.toNat := gcd_halveWhileEven (.inr oddV) 256 q.X1
    _ = Nat.gcd (halveBoth q).V.toNat q.U.toNat := Nat.gcd_comm _ _
    _ = Nat.gcd q.V.toNat q.U.toNat := gcd_halveWhileEven inv.oneOdd.symm 256 q.X2
    _ = Nat.gcd q.U.toNat q.V.toNat := Nat.gcd_comm _ _

theorem halveBoth_keeps_inv {x : U256} {q : Pairs} (inv : InvertInv x q) (running : q.U.toNat ≠ 0) :
    InvertInv x (halveBoth q) := by
  have odd := halveBoth_bothOdd running inv.V_ne_zero
  obtain ⟨canonicalX1, canonicalX2⟩ := halveBoth_canonical (q := q) ⟨inv.canonicalX1, inv.canonicalX2⟩
  exact {
    first := halveWhileEven_keeps_modEq inv.first 256
    second := halveWhileEven_keeps_modEq inv.second 256
    canonicalX1 := canonicalX1
    canonicalX2 := canonicalX2
    gcdKept := (gcd_halveBoth inv).trans inv.gcdKept
    positiveV := Nat.one_le_iff_ne_zero.mpr odd.nonzero.2
    oneOdd := .inl odd.1 }

/-! ### Step 3 -/

theorem rawSub_toNat_of_le {x y : U256} (noBorrow : y.toNat ≤ x.toNat) : (rawSub x y).1.toNat = x.toNat - y.toNat :=
  BitVec.toNat_sub_of_le (BitVec.le_def.mpr noBorrow)

theorem step3_of_le {q : Pairs} (le : q.V.toNat ≤ q.U.toNat) :
    step3 q = { q with U := (rawSub q.U q.V).1, X1 := (modSub q.X1 q.X2).1 } := by
  rw [step3, geq_eq, if_pos (decide_eq_true le)]

theorem step3_of_lt {q : Pairs} (lt : q.U.toNat < q.V.toNat) :
    step3 q = { q with V := (rawSub q.V q.U).1, X2 := (modSub q.X2 q.X1).1 } := by
  rw [step3, geq_eq, if_neg (by simpa using lt)]

/-- On canonical values modSub is subtraction modulo p (spec/41_mod_addsub.md R115). -/
theorem modSub_add_modEq {c d : U256} (canonicalC : c.toNat < pNat) (canonicalD : d.toNat < pNat) :
    (modSub c d).1.toNat + d.toNat ≡ c.toNat [MOD pNat] := by
  obtain ⟨-, difference, -, -⟩ := modAddSubInDomain c d canonicalC canonicalD
  rw [← Int.natCast_modEq_iff, Nat.cast_add, difference]
  simpa using (Int.mod_modEq ((c.toNat : Int) - d.toNat) pNat).add_right d.toNat

/-- Subtracting one congruence of (a) from the other (R166). -/
theorem modSub_mul_modEq_rawSub {c d u v x : U256} (canonicalC : c.toNat < pNat) (canonicalD : d.toNat < pNat)
    (left : c.toNat * x.toNat ≡ u.toNat [MOD pNat]) (right : d.toNat * x.toNat ≡ v.toNat [MOD pNat])
    (noBorrow : v.toNat ≤ u.toNat) : (modSub c d).1.toNat * x.toNat ≡ (rawSub u v).1.toNat [MOD pNat] := by
  refine Nat.ModEq.add_right_cancel right ?_
  rw [← add_mul, rawSub_toNat_of_le noBorrow, Nat.sub_add_cancel noBorrow]
  exact ((modSub_add_modEq canonicalC canonicalD).mul_right _).trans left

/-- Step 3 keeps the smaller of U and V, which is odd, and replaces the larger by the difference (R162, R166). -/
theorem step3_keeps_inv {x : U256} {q : Pairs} (inv : InvertInv x q) (odd : q.BothOdd) : InvertInv x (step3 q) := by
  have canonical := step3_canonical (q := q) ⟨inv.canonicalX1, inv.canonicalX2⟩
  rcases le_or_gt q.V.toNat q.U.toNat with le | lt
  · have difference := modSub_mul_modEq_rawSub inv.canonicalX1 inv.canonicalX2 inv.first inv.second le
    rw [step3_of_le le] at canonical ⊢
    exact { inv with
      first := by dsimp only; exact difference
      canonicalX1 := canonical.1
      gcdKept := by rw [← inv.gcdKept, rawSub_toNat_of_le le, Nat.gcd_sub_self_left le]
      oneOdd := .inr odd.2 }
  · have difference := modSub_mul_modEq_rawSub inv.canonicalX2 inv.canonicalX1 inv.second inv.first lt.le
    rw [step3_of_lt lt] at canonical ⊢
    exact { inv with
      second := by dsimp only; exact difference
      canonicalX2 := canonical.2
      gcdKept := by rw [← inv.gcdKept, rawSub_toNat_of_le lt.le, Nat.gcd_sub_self_right lt.le]
      positiveV := by rw [rawSub_toNat_of_le lt.le]; omega
      oneOdd := .inl odd.1 }

theorem invertRound_keeps_inv {x : U256} {q : Pairs} (inv : InvertInv x q) (running : q.U.toNat ≠ 0) :
    InvertInv x (invertRound q) :=
  step3_keeps_inv (halveBoth_keeps_inv inv running) (halveBoth_bothOdd running inv.V_ne_zero)

theorem invertStart_inv (x : U256) : InvertInv x (invertStart x) := by
  obtain ⟨canonicalX1, canonicalX2⟩ := invertStart_canonical x
  obtain ⟨-, -, odd_p⟩ := pNat_bounds
  exact {
    first := by simp [invertStart, Nat.ModEq.refl]
    second := by simp [invertStart, modulus_toNat, Nat.ModEq]
    canonicalX1 := canonicalX1
    canonicalX2 := canonicalX2
    gcdKept := by rw [invertStart, modulus_toNat]
    positiveV := by rw [invertStart, modulus_toNat]; omega
    oneOdd := .inr (by rw [isOdd_iff, invertStart, modulus_toNat, odd_p]) }

theorem isZero_eq_false_iff (u : U256) : isZero u = false ↔ u.toNat ≠ 0 := by
  rw [← Bool.not_eq_true, isZero_iff]

/-- Settles O46: the invariant at the start, through the inner loops, and through step 3. -/
theorem invertInvariantKept : Obligations.InvertInvariantKept := by
  refine ⟨invertStart_inv, fun x q inv running => ?_⟩
  rw [isZero_eq_false_iff] at running
  obtain ⟨oddU, oddV⟩ := halveBoth_bothOdd running inv.V_ne_zero
  exact ⟨halveBoth_keeps_inv inv running, oddU, oddV, invertRound_keeps_inv inv running⟩

/-! ### Termination -/

/-- R167's L, the bit lengths of U and V together. -/
def Pairs.bits (q : Pairs) : Nat :=
  q.U.toNat.size + q.V.toNat.size

theorem size_eq_halvings_add {u : U256} (nonzero : u.toNat ≠ 0) (x : U256) :
    u.toNat.size = (halveWhileEven 256 u x).1.toNat.size + halvings 256 u := by
  have value := eq_two_pow_halvings_mul 256 u x
  have odd_ne_zero : (halveWhileEven 256 u x).1.toNat ≠ 0 := fun zero => nonzero (by rw [value, zero, mul_zero])
  rw [← Nat.size_shiftLeft odd_ne_zero, Nat.shiftLeft_eq, mul_comm, ← value]

/-- Each halving lowers L by exactly 1 (R167). -/
theorem bits_halveBoth {q : Pairs} (running : q.U.toNat ≠ 0) (positiveV : q.V.toNat ≠ 0) :
    q.bits = (halveBoth q).bits + (halvings 256 q.U + halvings 256 q.V) := by
  rw [Pairs.bits, Pairs.bits, size_eq_halvings_add running q.X1, size_eq_halvings_add positiveV q.X2, halveBoth_U, halveBoth_V,
    Nat.add_add_add_comm]

/-- Step 3 never raises L (R167). -/
theorem bits_step3_le (q : Pairs) : (step3 q).bits ≤ q.bits := by
  rcases le_or_gt q.V.toNat q.U.toNat with le | lt
  · rw [step3_of_le le, Pairs.bits, rawSub_toNat_of_le le]
    exact Nat.add_le_add_right (Nat.size_le_size (Nat.sub_le _ _)) _
  · rw [step3_of_lt lt, Pairs.bits, rawSub_toNat_of_le lt.le]
    exact Nat.add_le_add_left (Nat.size_le_size (Nat.sub_le _ _)) _

/-- Odd minus odd is even (R162). -/
theorem step3_not_bothOdd {q : Pairs} (odd : q.BothOdd) : ¬ (step3 q).BothOdd := by
  rintro ⟨oddU, oddV⟩
  obtain ⟨wasOddU, wasOddV⟩ := odd
  rw [isOdd_iff] at oddU oddV wasOddU wasOddV
  rcases le_or_gt q.V.toNat q.U.toNat with le | lt
  · rw [step3_of_le le, rawSub_toNat_of_le le] at oddU
    omega
  · rw [step3_of_lt lt, rawSub_toNat_of_le lt.le] at oddV
    omega

theorem halvings_pos_of_not_bothOdd {q : Pairs} (oneEven : ¬ q.BothOdd) : 1 ≤ halvings 256 q.U + halvings 256 q.V := by
  rw [Pairs.BothOdd, not_and_or, Bool.not_eq_true, Bool.not_eq_true, isOdd, isOdd, Bool.not_eq_false',
    Bool.not_eq_false'] at oneEven
  rcases oneEven with even | even
  · rw [halvings_of_even even]
    omega
  · rw [halvings_of_even even]
    omega

/-- A round lowers L by its halvings at least (R167). -/
theorem bits_invertRound_le {q : Pairs} (running : q.U.toNat ≠ 0) (positiveV : q.V.toNat ≠ 0) :
    (invertRound q).bits + (halvings 256 q.U + halvings 256 q.V) ≤ q.bits := by
  rw [bits_halveBoth running positiveV]
  exact Nat.add_le_add_right (bits_step3_le (halveBoth q)) _

theorem two_le_bits {q : Pairs} (running : q.U.toNat ≠ 0) (positiveV : q.V.toNat ≠ 0) : 2 ≤ q.bits :=
  Nat.add_le_add (Nat.size_pos.mpr (Nat.pos_of_ne_zero running)) (Nat.size_pos.mpr (Nat.pos_of_ne_zero positiveV))

theorem bits_le (q : Pairs) : q.bits ≤ 512 :=
  Nat.add_le_add (Nat.size_le.mpr q.U.isLt) (Nat.size_le.mpr q.V.isLt)

theorem invertLoop_of_zero {q : Pairs} (ended : q.U.toNat = 0) (fuel : Nat) : invertLoop fuel q = q := by
  cases fuel with
  | zero => rfl
  | succ fuel => rw [invertLoop, if_pos ((isZero_iff q.U).mpr ended)]

theorem invertLoop_of_ne_zero {q : Pairs} (running : q.U.toNat ≠ 0) (fuel : Nat) :
    invertLoop (fuel + 1) q = invertLoop fuel (invertRound q) := by
  rw [invertLoop, (isZero_eq_false_iff q.U).mpr running, if_neg Bool.false_ne_true]

theorem invertCounts_of_zero {q : Pairs} (ended : q.U.toNat = 0) (fuel : Nat) : invertCounts fuel q = (0, 0) := by
  cases fuel with
  | zero => rfl
  | succ fuel => rw [invertCounts, if_pos ((isZero_iff q.U).mpr ended)]

theorem invertCounts_of_ne_zero {q : Pairs} (running : q.U.toNat ≠ 0) (fuel : Nat) :
    invertCounts (fuel + 1) q = ((invertCounts fuel (invertRound q)).1 + 1,
      (invertCounts fuel (invertRound q)).2 + halvings 256 q.U + halvings 256 q.V) := by
  rw [invertCounts, (isZero_eq_false_iff q.U).mpr running, if_neg Bool.false_ne_true]

theorem invertLoop_inv {x : U256} {q : Pairs} (inv : InvertInv x q) (fuel : Nat) : InvertInv x (invertLoop fuel q) := by
  induction fuel generalizing q with
  | zero => exact inv
  | succ fuel ih =>
    by_cases ended : q.U.toNat = 0
    · rwa [invertLoop_of_zero ended]
    · rw [invertLoop_of_ne_zero ended]
      exact ih (invertRound_keeps_inv inv ended)

theorem invertRound_not_bothOdd {q : Pairs} (running : q.U.toNat ≠ 0) (positiveV : q.V.toNat ≠ 0) :
    ¬ (invertRound q).BothOdd :=
  step3_not_bothOdd (halveBoth_bothOdd running positiveV)

/-- From the second round on every round halves at least once, and the loop runs only while L is at least 2 (R162, R167). -/
theorem invertLoop_ends {x : U256} {q : Pairs} (inv : InvertInv x q) (oneEven : ¬ q.BothOdd) {fuel : Nat}
    (enough : q.bits ≤ fuel + 2) : (invertLoop fuel q).U.toNat = 0 := by
  induction fuel generalizing q with
  | zero =>
    by_contra running
    rw [invertLoop] at running
    have halved := halvings_pos_of_not_bothOdd oneEven
    have lowered := bits_halveBoth running inv.V_ne_zero
    obtain ⟨nonzeroU, nonzeroV⟩ := (halveBoth_bothOdd running inv.V_ne_zero).nonzero
    have left := two_le_bits nonzeroU nonzeroV
    omega
  | succ fuel ih =>
    by_cases ended : q.U.toNat = 0
    · rwa [invertLoop_of_zero ended]
    · have halved := halvings_pos_of_not_bothOdd oneEven
      have lowered := bits_invertRound_le ended inv.V_ne_zero
      rw [invertLoop_of_ne_zero ended]
      exact ih (invertRound_keeps_inv inv ended) (invertRound_not_bothOdd ended inv.V_ne_zero) (by omega)

/-- The first round may halve nothing; the 510 after it lower L from 512 to 2. -/
theorem invertLoop_511_ends {x : U256} {q : Pairs} (inv : InvertInv x q) : (invertLoop 511 q).U.toNat = 0 := by
  by_cases ended : q.U.toNat = 0
  · rwa [invertLoop_of_zero ended]
  · rw [invertLoop_of_ne_zero ended]
    exact invertLoop_ends (invertRound_keeps_inv inv ended) (invertRound_not_bothOdd ended inv.V_ne_zero) (bits_le _)

/-- A loop that has ended leaves further fuel unused, and counts nothing with it. -/
theorem invertLoop_add_fuel {fuel : Nat} {q : Pairs} (stopped : (invertLoop fuel q).U.toNat = 0) (more : Nat) :
    invertLoop (fuel + more) q = invertLoop fuel q ∧ invertCounts (fuel + more) q = invertCounts fuel q := by
  induction fuel generalizing q with
  | zero => exact ⟨invertLoop_of_zero stopped _, invertCounts_of_zero stopped _⟩
  | succ fuel ih =>
    by_cases ended : q.U.toNat = 0
    · simp only [invertLoop_of_zero ended, invertCounts_of_zero ended, and_self]
    · rw [invertLoop_of_ne_zero ended] at stopped ⊢
      obtain ⟨sameLoop, sameCounts⟩ := ih stopped
      rw [Nat.add_right_comm, invertLoop_of_ne_zero ended, invertCounts_of_ne_zero ended, invertCounts_of_ne_zero ended,
        sameCounts]
      exact ⟨sameLoop, rfl⟩

theorem invertCounts_fst_le (fuel : Nat) (q : Pairs) : (invertCounts fuel q).1 ≤ fuel := by
  induction fuel generalizing q with
  | zero => exact Nat.le_refl 0
  | succ fuel ih =>
    by_cases ended : q.U.toNat = 0
    · rw [invertCounts_of_zero ended]
      exact Nat.zero_le _
    · rw [invertCounts_of_ne_zero ended]
      exact Nat.succ_le_succ (ih (invertRound q))

/-- The halvings of all rounds lower L, which is at least 2 before the last step 3 (R167). -/
theorem invertCounts_snd_le {x : U256} {q : Pairs} (inv : InvertInv x q) (fuel : Nat) :
    (invertCounts fuel q).2 ≤ q.bits - 2 := by
  induction fuel generalizing q with
  | zero => exact Nat.zero_le _
  | succ fuel ih =>
    by_cases ended : q.U.toNat = 0
    · rw [invertCounts_of_zero ended]
      exact Nat.zero_le _
    · have rest := ih (invertRound_keeps_inv inv ended)
      have halved := bits_halveBoth ended inv.V_ne_zero
      have subtracted : (invertRound q).bits ≤ (halveBoth q).bits := bits_step3_le (halveBoth q)
      obtain ⟨nonzeroU, nonzeroV⟩ := (halveBoth_bothOdd ended inv.V_ne_zero).nonzero
      have left := two_le_bits nonzeroU nonzeroV
      rw [invertCounts_of_ne_zero ended]
      dsimp only
      omega

/-- Settles O47: after 511 rounds U is 0, and each halving has cost one of at most 510 bits. -/
theorem invertTerminates : Obligations.InvertTerminates := by
  intro x
  have ended := invertLoop_511_ends (invertStart_inv x)
  refine ⟨BitVec.eq_of_toNat_eq ended, fun fuel enough => ?_⟩
  obtain ⟨more, rfl⟩ := Nat.exists_eq_add_of_le enough
  obtain ⟨sameLoop, sameCounts⟩ := invertLoop_add_fuel ended more
  refine ⟨sameLoop, ?_, ?_⟩
  · rw [sameCounts]
    exact invertCounts_fst_le 511 (invertStart x)
  · exact (invertCounts_snd_le (invertStart_inv x) _).trans (Nat.sub_le_sub_right (bits_le _) 2)

/-! ### The exit state and INV -/

theorem invertLoop_exit_gcd (x : U256) : (invertLoop 511 (invertStart x)).V.toNat = Nat.gcd x.toNat pNat := by
  have inv := invertLoop_inv (invertStart_inv x) 511
  rw [← inv.gcdKept, invertLoop_511_ends (invertStart_inv x), Nat.gcd_zero_left]

theorem coprime_pNat {n : Nat} (notMultiple : n % pNat ≠ 0) : Nat.Coprime n pNat :=
  ((Laws.Prime.prime_modulus.coprime_iff_not_dvd).mpr fun dvd => notMultiple (Nat.mod_eq_zero_of_dvd dvd)).symm

theorem invertLoop_exit_V_toNat {x : U256} (notMultiple : x.toNat % pNat ≠ 0) :
    (invertLoop 511 (invertStart x)).V.toNat = 1 := by
  rw [invertLoop_exit_gcd]
  exact coprime_pNat notMultiple

/-- At exit X1 * X is congruent to U = 0 and X is a unit, so the canonical X1 is 0 (R164). -/
theorem invertLoop_exit_X1_toNat {x : U256} (notMultiple : x.toNat % pNat ≠ 0) :
    (invertLoop 511 (invertStart x)).X1.toNat = 0 := by
  have inv := invertLoop_inv (invertStart_inv x) 511
  have multiple := inv.first
  rw [invertLoop_511_ends (invertStart_inv x), Nat.modEq_zero_iff_dvd] at multiple
  exact Nat.eq_zero_of_dvd_of_lt ((coprime_pNat notMultiple).symm.dvd_of_dvd_mul_right multiple) inv.canonicalX1

/-- Settles O48: at exit U = 0, so V is the gcd that was kept and X1 a multiple of p below p. -/
theorem invertExitState : Obligations.InvertExitState := fun x =>
  ⟨invertLoop_exit_gcd x, fun notMultiple =>
    ⟨BitVec.eq_of_toNat_eq (invertLoop_exit_V_toNat notMultiple),
      BitVec.eq_of_toNat_eq (invertLoop_exit_X1_toNat notMultiple)⟩⟩

/-- X2 * X is congruent to V = 1 at exit (R164, R166). -/
theorem mul_invert_modEq_one {x : U256} (notMultiple : x.toNat % pNat ≠ 0) : x.toNat * (invert x).toNat ≡ 1 [MOD pNat] := by
  have inv := invertLoop_inv (invertStart_inv x) 511
  rw [mul_comm, invert, ← invertLoop_exit_V_toNat notMultiple]
  exact inv.second

/-- Multiplying by the unit x is injective modulo p. -/
theorem eq_invert_of_mul_modEq_one {x : U256} (notMultiple : x.toNat % pNat ≠ 0) {w : Nat} (canonical : w < pNat)
    (inverse : x.toNat * w ≡ 1 [MOD pNat]) : w = (invert x).toNat :=
  (Nat.ModEq.cancel_left_of_coprime (coprime_pNat notMultiple).symm
    (inverse.trans (mul_invert_modEq_one notMultiple).symm)).eq_of_lt_of_lt canonical (invert_lt x)

theorem invert_of_zero_or_modulus {x : U256} (multiple : x.toNat = 0 ∨ x.toNat = pNat) : invert x = 0 := by
  rcases multiple with zero | modulusItself
  · rw [invert, invertLoop_of_zero zero, invertStart]
  · have evaluated : invert modulus = 0 := by decide +kernel
    rwa [BitVec.eq_of_toNat_eq (modulusItself.trans modulus_toNat.symm)]

theorem pvInverse_eq (a : U256) : pvInverse a = decide (a.toNat = 0 ∨ pNat ≤ a.toNat) := by
  have zero : isZero a = decide (a.toNat = 0) := Bool.eq_iff_iff.mpr (by rw [isZero_iff, decide_eq_true_iff])
  rw [pvInverse, zero, outOfRange_eq, Bool.decide_or]

/-- Settles O25: the exit state makes X2 the inverse of a unit; from 0 and from p the loop ends with the X2 = 0 it began with. -/
theorem invResult : Obligations.InvResult := by
  obtain ⟨-, above, -⟩ := pNat_bounds
  have one_mod : 1 % pNat = 1 := Nat.mod_eq_of_lt (by omega)
  refine ⟨rfl, fun s => ⟨?_, invert_lt s.A, fun notMultiple => ?_, invert_of_zero_or_modulus⟩⟩
  · rw [← pvInverse_eq]
    exact exec_eq_completed .inv s
  · have inverse := mul_invert_modEq_one notMultiple
    rw [Nat.ModEq, one_mod] at inverse
    refine ⟨Nat.one_le_iff_ne_zero.mpr fun zero => ?_, inverse, fun w canonical product => ?_⟩
    · rw [zero, mul_zero, Nat.zero_mod] at inverse
      exact absurd inverse (by decide)
    · exact eq_invert_of_mul_modEq_one notMultiple canonical (product.trans one_mod.symm)

end Sys2Proof.Machine
end

section
/-! PV as the domain test of the operands (spec/60_exceptions.md R182). -/

namespace Sys2Proof.Machine

theorem outOfRange_iff (x : U256) : outOfRange x = true ↔ pNat ≤ x.toNat := by
  rw [outOfRange_eq, decide_eq_true_iff]

theorem pvModular_iff (a b : U256) : pvModular a b = true ↔ ¬ (a.toNat < pNat ∧ b.toNat < pNat) := by
  rw [pvModular_eq, decide_eq_true_iff, not_and_or, not_lt, not_lt]

theorem pvInverse_iff (a : U256) : pvInverse a = true ↔ ¬ (0 < a.toNat ∧ a.toNat < pNat) := by
  rw [pvInverse_eq, decide_eq_true_iff, not_and_or, not_lt, not_lt, Nat.le_zero]

/-- R182's table row by row: the operations without a precondition write 0, the others the negation of theirs. -/
theorem finalPV_iff_not_inDomain (i : Instr) (s : State) : finalPV i s.A s.B = true ↔ ¬ InDomain i s := by
  cases i
  case madd | msub => exact pvModular_iff s.A s.B
  case inv => exact pvInverse_iff s.A
  case radd | rsub | mul | red => exact iff_of_false Bool.false_ne_true (not_not_intro trivial)

/-- Settles O29: the PV that `completed` writes is the domain test, and `outOfRange` is the carry of rawAdd(X, r). -/
theorem pvIsOutOfDomain : Obligations.PvIsOutOfDomain := by
  refine ⟨fun i s t executed => ?_, outOfRange_iff⟩
  rw [(exec_next_iff i s t).mp executed, completed_STATUS, completeStatus_pv]
  exact finalPV_iff_not_inDomain i s

end Sys2Proof.Machine
end

section
/-! Reset (spec/70_reset_and_hazards.md R200 to R202): the idle block it leaves, and its three forms at a turn of the host. -/

namespace Sys2Proof.Machine

/-! ### The block a Reset leaves -/

section
variable (d : ResetData) (n : Nat) (ops : List HostOp) (bs : List Byte)

theorem resetWith_idle : (State.resetWith d n ops bs).STATUS.busy = false := rfl

theorem step_resetWith : step (State.resetWith d n ops bs) = .next (hostTurn (State.resetWith d n ops bs)) :=
  step_of_idle (resetWith_idle d n ops bs)

theorem hostRead_resetWith (addr : Byte) :
    hostRead (State.resetWith d n ops bs) addr = windowByte (State.resetWith d n ops bs) addr :=
  hostRead_idle _ addr (resetWith_idle d n ops bs)

theorem hostRead_resetWith_status : hostRead (State.resetWith d n ops bs) statusAddr = 0x00 := by
  have flags : statusByte Status.zero = 0x00 := by decide
  exact (hostRead_resetWith d n ops bs statusAddr).trans flags

theorem hostRead_resetWith_cmd : hostRead (State.resetWith d n ops bs) cmdAddr = 0x00 :=
  hostRead_resetWith d n ops bs cmdAddr

end

/-- A write below 0x80 is no CMD write, so it starts nothing (spec/20_memory.md R57). -/
theorem hostWrite_data_STATUS {s : State} {addr : Byte} (low : addr.toNat < 0x80) (b : Byte) :
    (hostWrite s addr b).STATUS = s.STATUS := by
  rcases hostWrite_cases s addr b with
    same | ⟨-, ⟨k, -, written⟩ | ⟨k, -, written⟩ | ⟨k, -, written⟩ | ⟨named, -⟩⟩
  on_goal 5 =>
    have atCmd : addr.toNat = 0xE0 := region_eq_iff.mp named
    omega
  · rw [same]
  all_goals rw [written]

/-- What an idle host writes to an operand byte it reads back (spec/20_memory.md R58). -/
theorem hostRead_hostWrite {s : State} (idle : s.STATUS.busy = false) {addr : Byte} (low : addr.toNat < 0x80) (b : Byte) :
    hostRead (hostWrite s addr b) addr = b := by
  have stillIdle : (hostWrite s addr b).STATUS.busy = false := by rw [hostWrite_data_STATUS low, idle]
  rw [hostRead_idle _ addr stillIdle, windowByte_hostWrite idle low, if_pos rfl]

/-- Settles O17: STATUS is zero whatever the registers hold, and what an idle block does with a write asks for no more. -/
theorem resetLeavesBlockReady : Obligations.ResetLeavesBlockReady := by
  intro d n ops bs s
  have idle : s.STATUS.busy = false := resetWith_idle d n ops bs
  refine ⟨idle, hostRead_resetWith_status d n ops bs, hostRead_resetWith_cmd d n ops bs, step_resetWith d n ops bs,
    fun addr b low => hostRead_hostWrite idle low b, fun i => ?_⟩
  rw [hostWrite_valid idle i]
  exact ⟨rfl, rfl⟩

/-! ### A Reset at a turn of the host -/

/-- At the host's turn the step runs the head of the script; only the countdown may have moved (spec/60_exceptions.md R184). -/
theorem step_of_head {s : State} {op : HostOp} {rest : List HostOp} (hostsTurn : s.STATUS.busy = true → 0 < s.wait)
    (head : s.script = op :: rest) : ∃ left, step s = .next (hostDo { s with script := rest, wait := left } op) := by
  cases busy : s.STATUS.busy with
  | false => exact ⟨s.wait, by rw [step_of_idle busy, hostTurn_cons head]⟩
  | true =>
    obtain ⟨left, wait⟩ := Nat.exists_eq_add_one.mpr (hostsTurn busy)
    have turn := hostTurn_cons (s := { s with wait := left }) head
    exact ⟨left, by rw [step_of_latency busy wait, turn]⟩

/-- P and RC are hardwired: no state has other bytes at 0xA0 to 0xDF (spec/10_state.md R30). -/
theorem windowByte_constants (s t : State) {addr : Byte} (low : 0xA0 ≤ addr.toNat) (high : addr.toNat < 0xE0) :
    windowByte t addr = windowByte s addr := by
  rcases Nat.lt_or_ge addr.toNat 0xC0 with inP | inRC
  · have covers : addr.toNat = 0xA0 + (addr.toNat - 0xA0) ∧ addr.toNat - 0xA0 < 32 := by omega
    rw [windowByte_p t covers, windowByte_p s covers]
  · have covers : addr.toNat = 0xC0 + (addr.toNat - 0xC0) ∧ addr.toNat - 0xC0 < 32 := by omega
    rw [windowByte_rc t covers, windowByte_rc s covers]

/-- Settles O18: each form of Reset discards the state it finds, and with it the countdown that `step_of_head` leaves open. -/
theorem resetAbandonsOperation : Obligations.ResetAbandonsOperation := by
  intro s rest hostsTurn d
  refine ⟨fun head => ?_, fun addr b head => ?_, fun addr head => ?_, fun n bs => ?_⟩
  on_goal 4 =>
    refine ⟨rfl, rfl, hostRead_resetWith_status d n rest bs, hostRead_resetWith_cmd d n rest bs, rfl, rfl, rfl, rfl, rfl,
      rfl, rfl, rfl, rfl, fun addr low high => ?_, step_resetWith d n rest bs⟩
    rw [hostRead_resetWith]
    exact windowByte_constants s _ low high
  all_goals
    obtain ⟨left, stepped⟩ := step_of_head hostsTurn head
    exact stepped

end Sys2Proof.Machine
end
